-- ==== Sys2Proof/Word.lean ====
section
/-! DEFINITION. The word of the part's records (section 0.7 and R168): 32 bits, packed little-endian. -/

namespace Sys2Proof

/-- A word of a record: 32 bits, bit 0 the least significant (R168). -/
abbrev Word := BitVec 32

/-- The `width` bits of a word from bit `lo` upward (the "bits hi:lo" of chapter 11). -/
abbrev bits (w : Word) (lo width : Nat) : BitVec width := w.extractLsb' lo width

end Sys2Proof
end

