-- ==== Sys2Proof/Syntax.lean ====
section
/-! DEFINITION. The commands of the part: one constructor of `Instr` for each row of spec/opcode_table.json, with the
operands the manual's rules give the row (the table itself gives none: assumption log 2). -/

namespace Sys2Proof

/-- One beat of a write: 64 bits of data and eight byte enables, lane 0 at the lowest address (section 0.4, R156). -/
structure Beat where
  data : BitVec 64
  lanes : BitVec 8
  deriving DecidableEq, Repr

/-- A write transaction: one burst of 1 to 16 beats at incrementing addresses (section 10.1). -/
structure WriteBurst where
  addr : Word
  beats : List Beat
  deriving DecidableEq, Repr

/-- A read transaction: it names the bytes it wants, beat by beat, by their lanes (section 10.1). -/
structure ReadBurst where
  addr : Word
  lanes : List (BitVec 8)
  deriving DecidableEq, Repr

/-- The response of a transaction (section 0.4). -/
inductive Response where
  | okay
  | error
  deriving DecidableEq, Repr

/-- What the bus does with a write of the bench: it arrives at the upstream port, or the downstream port answers the
`k`-th of the transactions sent downstream and not yet answered (R156, R166; assumption log 5). -/
inductive BusWrite where
  | arrive (w : WriteBurst)
  | answer (k : Nat) (r : Response)
  deriving DecidableEq, Repr

/-- What the bus does with a read of the bench: it arrives at the upstream port, or the downstream port answers the
`k`-th of the transactions sent downstream and not yet answered, returning whole beats (R116, R156; log 5). -/
inductive BusRead where
  | arrive (r : ReadBurst)
  | answer (k : Nat) (r : Response) (data : List (BitVec 64))
  deriving DecidableEq, Repr

/-- The direction of an edge of INDEX (R50). -/
inductive Edge where
  | falling
  | rising
  deriving DecidableEq, Repr

/-! The operands of the directives, each over the whole width of its field (R155, R168, section 11.2). -/

structure WindowOperands where
  captureBase : Word
  slotCount : Word
  resultBase : Word
  deriving DecidableEq, Repr

structure GeometryOperands where
  heads : BitVec 8
  zones : BitVec 8
  wpr : BitVec 16
  gapLimit : BitVec 16
  deriving DecidableEq, Repr

structure ZoneOperands where
  first : BitVec 8
  count : BitVec 8
  tracks : Vector Word 6
  deriving DecidableEq, Repr

structure HeadOperands where
  head : BitVec 8
  floor : BitVec 16
  signal : Word
  window : BitVec 16
  deriving DecidableEq, Repr

structure FollowOperands where
  settle : BitVec 16
  inhibit : BitVec 16
  limit : BitVec 16
  deriving DecidableEq, Repr

structure TimebaseOperands where
  source : BitVec 2
  prescale : BitVec 8
  deriving DecidableEq, Repr

structure IndexOperands where
  edge : BitVec 2
  nominal : Word
  tolerance : BitVec 16
  deriving DecidableEq, Repr

structure TimerOperands where
  mode : BitVec 2
  period : Word
  deriving DecidableEq, Repr

structure SweepOperands where
  kind : BitVec 2
  firstHead : BitVec 8
  lastHead : BitVec 8
  zone : BitVec 8
  quota : BitVec 16
  deadline : BitVec 16
  passes : BitVec 2
  trigger : BitVec 2
  atSpeed : Bool
  limit : BitVec 16
  spreadLimit : BitVec 16
  jogThreshold : BitVec 16
  deriving DecidableEq, Repr

structure ImageOperands where
  base : Word
  length : Word
  checksum : Word
  deriving DecidableEq, Repr

structure FieldOperands where
  offset : Word
  width : BitVec 8
  encoding : BitVec 8
  scale : BitVec 8
  head : BitVec 8
  zone : BitVec 8
  quantity : BitVec 8
  deriving DecidableEq, Repr

/-- A directive of the catalogue with its operands, as the Directive Decoder hands it to its owner (R148, R155). -/
inductive Directive where
  | setWindows (o : WindowOperands)
  | setGeometry (o : GeometryOperands)
  | setZones (o : ZoneOperands)
  | setHead (o : HeadOperands)
  | setFollow (o : FollowOperands)
  | setTimebase (o : TimebaseOperands)
  | setIndex (o : IndexOperands)
  | setTimer (o : TimerOperands)
  | setReports (mask : Word)
  | sweep (o : SweepOperands)
  | halt
  | clearHead (head : BitVec 8)
  | clearHistory (head : BitVec 8)
  | setImage (o : ImageOperands)
  | mapField (o : FieldOperands)
  | clearMap
  | publish
  | release
  deriving DecidableEq, Repr

/-- The commands: one constructor per row of spec/opcode_table.json. -/
inductive Instr where
  /-- RESET goes low (R167). -/
  | resetAssert
  /-- RESET is released, with the levels of STRAP1 and STRAP0 at that moment (R157). -/
  | resetRelease (strap1 strap0 : Bool)
  /-- A write arrives that goes into the capture ring (R2). -/
  | captureWrite (w : WriteBurst)
  /-- A write arrives that goes into the mailbox (R147). -/
  | mailboxWrite (w : WriteBurst)
  /-- A write of the go word alone arrives, full, with this content; the latch decides what is taken (R148). -/
  | unknownKind (go : Word)
  /-- The directives: software writes the whole directive as one 4-beat burst (section 9.8, assumption log 3). -/
  | setWindows (o : WindowOperands)
  | setGeometry (o : GeometryOperands)
  | setZones (o : ZoneOperands)
  | setHead (o : HeadOperands)
  | setFollow (o : FollowOperands)
  | setTimebase (o : TimebaseOperands)
  | setIndex (o : IndexOperands)
  | setTimer (o : TimerOperands)
  | setReports (mask : Word)
  | sweep (o : SweepOperands)
  | halt
  | clearHead (head : BitVec 8)
  | clearHistory (head : BitVec 8)
  | setImage (o : ImageOperands)
  | mapField (o : FieldOperands)
  | clearMap
  | publish
  | release
  /-- The record in the outcome holder enters the insertion queue (R151). -/
  | outcomeRecordEntry
  /-- The record in the result holder enters the insertion queue (R108). -/
  | resultRecordEntry
  /-- The Report Arbiter grants a slot (R139). -/
  | reportGrant
  /-- The front record of the insertion queue is issued downstream (R162). -/
  | insertIssue
  /-- The downstream port answers the record in flight OKAY (R162). -/
  | insertWriteOkay
  /-- The downstream port answers the record in flight ERROR (R166). -/
  | insertWriteError
  /-- The oldest held or waiting upstream transaction goes on, if nothing holds it any longer (R163, R164). -/
  | heldTransactionRelease
  /-- A read over the result area: it arrives, or it is answered (R68). -/
  | resultReadNotice (b : BusRead)
  /-- A read over the report ring: it arrives, or it is answered (R140). -/
  | consumptionNotice (b : BusRead)
  /-- A write arrives that goes into the image window (R120). -/
  | imageWrite (w : WriteBurst)
  /-- A read over the image window: it arrives, or its data returns (R125). -/
  | imageRead (b : BusRead)
  /-- Another write arrives, or a write sent downstream is answered (R164, R166). -/
  | upstreamWrite (b : BusWrite)
  /-- The prescale counter reaches 2^j: a tick ends (R45). -/
  | tick
  /-- An edge of INDEX, in the direction given (R51). -/
  | indexEvent (e : Edge)
  /-- The index interval has reached 2 × P (R53). -/
  | indexTimeout
  /-- The timer counter has reached its period (R58). -/
  | timerExpiry
  /-- 24 IOSC periods have gone by without a rising SREF edge (R49). -/
  | srefLoss
  /-- A rising edge of SREF (R48). -/
  | srefRisingEdge
  deriving DecidableEq, Repr

/-- The directive a directive command carries; `none` for every other command. -/
def Instr.directive : Instr → Option Directive
  | .setWindows o => some (.setWindows o)
  | .setGeometry o => some (.setGeometry o)
  | .setZones o => some (.setZones o)
  | .setHead o => some (.setHead o)
  | .setFollow o => some (.setFollow o)
  | .setTimebase o => some (.setTimebase o)
  | .setIndex o => some (.setIndex o)
  | .setTimer o => some (.setTimer o)
  | .setReports m => some (.setReports m)
  | .sweep o => some (.sweep o)
  | .halt => some .halt
  | .clearHead h => some (.clearHead h)
  | .clearHistory h => some (.clearHistory h)
  | .setImage o => some (.setImage o)
  | .mapField o => some (.mapField o)
  | .clearMap => some .clearMap
  | .publish => some .publish
  | .release => some .release
  | .resetAssert => none
  | .resetRelease _ _ => none
  | .captureWrite _ => none
  | .mailboxWrite _ => none
  | .unknownKind _ => none
  | .outcomeRecordEntry => none
  | .resultRecordEntry => none
  | .reportGrant => none
  | .insertIssue => none
  | .insertWriteOkay => none
  | .insertWriteError => none
  | .heldTransactionRelease => none
  | .resultReadNotice _ => none
  | .consumptionNotice _ => none
  | .imageWrite _ => none
  | .imageRead _ => none
  | .upstreamWrite _ => none
  | .tick => none
  | .indexEvent _ => none
  | .indexTimeout => none
  | .timerExpiry => none
  | .srefLoss => none
  | .srefRisingEdge => none

end Sys2Proof
end

