-- ==== Sys2Proof/Decode.lean ====
section
/-! DEFINITION. The command a word of the table's bits spells. No row of spec/opcode_table.json gives bits (its reader's
count: n_rows_with_fixed 0, n_rows_with_fields 0), so no word spells a command. The words of the mailbox are read in
Sys2Proof/Machine/Operands.lean. -/

namespace Sys2Proof

/-- The command spelled by the table's bits: none, since no row gives bits (assumption log 4). -/
def decodeTableWord (_nbits _w : Nat) : Option Instr := none

end Sys2Proof
end

