-- ==== Sys2Proof/Config.lean ====
section
/-! DEFINITION. The sizes the manual fixes for the part, each a number the manual states, and the one value it leaves open
(assumption logs 1 and 26). -/

namespace Sys2Proof.Config

/-- Entries of the insertion queue (R161). -/
abbrev queueEntries : Nat := 16

/-- Bytes of every record the part writes (section 0.7). -/
abbrev recordBytes : Nat := 32

/-- Free entries of the insertion queue a report grant needs (R138). -/
abbrev grantFreeEntries : Nat := 4

/-- Occupancy below which a ROUTINE report may be granted (R138). -/
abbrev routineLimit : Nat := 56

/-- Upper limit of the saturating 16-bit counts (R8, R65, R87, R91, R133). -/
abbrev countLimit : Nat := 65535

/-- Greatest track number (R1). -/
abbrev maxTrack : Nat := 16777215

/-- Greatest index interval and greatest timer period, in ticks (R50, R57). -/
abbrev maxTicks : Nat := 16777215

/-- IOSC periods without a rising SREF edge that make SREF lost (R48). -/
abbrev lossLimit : Nat := 24

/-- Bytes of the control region (R157). -/
abbrev controlBytes : Nat := 4096

/-- Bytes of the result area (R64, R158). -/
abbrev resultBytes : Nat := 16384

/-- Entries the patch map can hold (R117). -/
abbrev mapEntries : Nat := 128

/-- One more than the greatest 32-bit byte address (R115, R159). -/
abbrev addressSpace : Nat := 4294967296

/-- Greatest signal sum the manual gives word 7 of a frame (R13, section 11.1). -/
abbrev maxSignalSum : Nat := 131070

/-- A FREE VALUE: what the signal sum field of word 7 holds for a sum above `maxSignalSum`. R13 and section 11.1 give Sn + Sq a
range of 0 to 131070 in 17 bits, while the four bursts of a frame can make it reach 262140, and the manual states no value
for the field then. DESIGN CHOICE (assumption log 26). -/
opaque wideSignalSum : Nat → BitVec 17

end Sys2Proof.Config
end

