-- ==== Sys2Proof/Machine/State.lean ====
section
/-! DEFINITION. The state of the part, block by block as section 0.3 cuts it, and its value after device reset. -/

namespace Sys2Proof.Machine

/-! ## Values that software sees by name (section 11.6 gives their codes) -/

/-- The region of a frame's offset (R14). -/
inductive Region where
  | normal
  | quadrature
  deriving DecidableEq, Repr

/-- The grade of a frame (R10). -/
inductive Grade where
  | good
  | weak
  | clamped
  | void
  | foreign
  deriving DecidableEq, Repr

/-- The follow state of a head (R24). -/
inductive FollowState where
  | unseen
  | dormant
  | acquiring
  | settling
  | following
  | slipped
  deriving DecidableEq, Repr

/-- The sweep state (R76). -/
inductive SweepState where
  | idle
  | armed
  | awaitHead
  | measuring
  deriving DecidableEq, Repr

/-- The spindle state (R54). -/
inductive SpindleState where
  | unknown
  | atSpeed
  | offSpeed
  | stopped
  deriving DecidableEq, Repr

/-- The quantity a sweep measures, and the source quantity of a field (R63, R117). -/
inductive Quantity where
  | centre
  | jog
  deriving DecidableEq, Repr

/-- The outcome of a cell's latest close; `untaken` is the manual's NONE (R63). -/
inductive CellOutcome where
  | untaken
  | accepted
  | rejected
  | edge
  | noSignal
  | short
  | noHead
  deriving DecidableEq, Repr

/-- The outcome code of a directive (R149). -/
inductive OutcomeCode where
  | taken
  | takenClamped
  | incomplete
  | unknownKind
  | badValue
  | busy
  | overlap
  | state
  | full
  deriving DecidableEq, Repr

/-- The eleven report kinds, in the order of their codes (R134, section 11.6). -/
inductive ReportKind where
  | referenceLost
  | insertFault
  | spindleFault
  | sweepAborted
  | resultOverrun
  | headRequest
  | cellClosed
  | sweepDone
  | noLock
  | spindleReady
  | frameFault
  deriving DecidableEq, Repr

/-- The timebase state (R44). -/
inductive TimebaseState where
  | internal
  | external
  | fallback
  deriving DecidableEq, Repr

/-- The mode of the revolution timer (R57). -/
inductive TimerMode where
  | off
  | oneShot
  | periodic
  deriving DecidableEq, Repr

/-- How often a sweep goes round (R76). -/
inductive Passes where
  | onePass
  | continuous
  deriving DecidableEq, Repr

/-- What starts a pass (R80). -/
inductive Trigger where
  | now
  | index
  | timer
  deriving DecidableEq, Repr

/-- The encoding of an image field (R122). -/
inductive Encoding where
  | twos
  | offset
  | signMag
  deriving DecidableEq, Repr

/-- The image state (R113). -/
inductive ImageState where
  | unset
  | loading
  | published
  deriving DecidableEq, Repr

/-- Why a sweep was aborted (R93). -/
inductive AbortReason where
  | reference
  | spindle
  deriving DecidableEq, Repr

/-- Why a sweep ended (R91, R92). -/
inductive DoneReason where
  | complete
  | halted
  deriving DecidableEq, Repr

/-- The record kind of an insert, as the insert-fault record keeps it (R133). -/
inductive InsertKind where
  | result
  | outcome
  | report
  deriving DecidableEq, Repr

/-! ## Frame Reducer (R1) -/

/-- The reduction of a frame (R1, R10 to R17). -/
structure Reduction where
  offset : Int
  region : Region
  grade : Grade
  zone : Fin 32
  zoneUnknown : Bool
  signalSum : Nat
  deriving DecidableEq, Repr

/-- The frame assembly record (R1). A field whose word is not taken yet holds 0 and is not read; `shown` is the follow
state word 5 reported, which the answer for word 6 reads (R94; assumption log 17). -/
structure FrameRecord where
  slot : Nat
  expects : Nat
  head : Fin 16
  wedge : Nat
  markFound : Bool
  track : Nat
  trackValid : Bool
  burstA : Nat
  burstB : Nat
  burstC : Nat
  burstD : Nat
  amplitude : Nat
  reduction : Option Reduction
  shown : FollowState
  deriving DecidableEq, Repr

/-- What the Frame Reducer holds (R1). -/
structure FrameReducer where
  frame : Option FrameRecord
  heads : Nat
  zoneCount : Nat
  wpr : Nat
  gapLimit : Nat
  zones : List Nat
  torn : Nat
  badWedge : Nat
  deriving DecidableEq, Repr

/-! ## Follow Monitor (R24 to R26) -/

/-- The history set of a head (R24, R37). -/
structure History where
  acquiring : Bool
  settling : Bool
  following : Bool
  slipped : Bool
  deriving DecidableEq, Repr

/-- The follow record of one head (R24). -/
structure FollowRecord where
  state : FollowState
  run : Nat
  acquire : Nat
  history : History
  noLockRaised : Bool
  floor : Nat
  signal : Nat
  window : Nat
  deriving DecidableEq, Repr

/-- The last-frame record, each field optional (R26). -/
structure LastFrame where
  head : Option (Fin 16)
  track : Option Nat
  wedge : Option Nat
  deriving DecidableEq, Repr

/-- What the Follow Monitor holds (R24, R25, R26). -/
structure FollowMonitor where
  records : Vector FollowRecord 16
  settle : Nat
  inhibit : Nat
  acquireLimit : Nat
  active : Option (Fin 16)
  last : LastFrame
  deriving DecidableEq, Repr

/-! ## Timebase and Spindle Monitor (R44, R50, R54, R57) -/

/-- What the Timebase and Spindle Monitor holds. A nominal period of 0 is the manual's "unset" (R50). -/
structure SpindleMonitor where
  timebase : TimebaseState
  prescale : Nat
  prescaleCounter : Nat
  lossCount : Nat
  edge : Edge
  nominal : Nat
  tolerance : Nat
  lastIndex : Bool
  interval : Nat
  lastPeriod : Option Nat
  spindle : SpindleState
  timerMode : TimerMode
  timerPeriod : Nat
  timerCounter : Nat
  deriving DecidableEq, Repr

/-! ## Alignment Table (R63) -/

/-- A cell record (R63). -/
structure CellRecord where
  centre : Option Int
  jog : Option Int
  outcome : CellOutcome
  kind : Quantity
  unread : Bool
  passes : Nat
  deriving DecidableEq, Repr

/-- The 512 cell records, by cell index (R63). -/
structure AlignmentTable where
  cells : Vector CellRecord 512
  deriving DecidableEq, Repr

/-! ## Sweep Controller (R76, R99, R107) -/

/-- The accumulator (R99). `least` and `greatest` are pmin and pmax. -/
structure Accumulator where
  n : Nat
  sumP : Int
  sumP2 : Nat
  sumW : Nat
  sumWP : Int
  least : Option Int
  greatest : Option Int
  missed : Nat
  slips : Nat
  deriving DecidableEq, Repr

/-- A result record as built into the result holder: all but the overrun flag (R107). -/
structure ResultRecord where
  head : Fin 16
  zone : Fin 32
  kind : Quantity
  outcome : CellOutcome
  n : Nat
  value : Option Int
  spread : Nat
  extremes : Option (Int × Int)
  missed : Nat
  slips : Nat
  history : History
  passNumber : Nat
  addr : Nat
  deriving DecidableEq, Repr

/-- What the Sweep Controller holds: the sweep record, the accumulator and the result holder (R76). -/
structure SweepController where
  state : SweepState
  kind : Quantity
  firstHead : Fin 16
  lastHead : Fin 16
  zone : Fin 32
  quota : Nat
  deadline : Nat
  passes : Passes
  trigger : Trigger
  atSpeed : Bool
  limit : Nat
  spreadLimit : Nat
  jogThreshold : Nat
  currentHead : Fin 16
  passNumber : Nat
  passesCompleted : Nat
  revolutions : Nat
  acc : Accumulator
  holder : Option ResultRecord
  deriving DecidableEq, Repr

/-! ## Image Patcher (R113, R117) -/

/-- The state of a patch entry: DORMANT, or LIVE with its frozen value (R117). -/
inductive EntryState where
  | dormant
  | live (frozen : Nat)
  deriving DecidableEq, Repr

/-- An entry of the patch map (R117). -/
structure PatchEntry where
  offset : Nat
  width : Nat
  encoding : Encoding
  scale : Nat
  head : Fin 16
  zone : Fin 32
  quantity : Quantity
  baseline : Option Nat
  state : EntryState
  deriving DecidableEq, Repr

/-- The window base, window length and checksum offset, present together (R113). -/
structure ImageWindow where
  base : Nat
  length : Nat
  checksum : Nat
  deriving DecidableEq, Repr

/-- The image record (R113). -/
structure ImagePatcher where
  state : ImageState
  window : Option ImageWindow
  adjustment : Nat
  map : List PatchEntry
  deriving DecidableEq, Repr

/-! ## Report Arbiter (R133) -/

/-- The detail of a report: its head and zone where they apply, detail A and detail B (R134). -/
structure ReportDetail where
  place : Option (Fin 16 × Fin 32)
  a : Nat
  b : Nat
  deriving DecidableEq, Repr

/-- A pending entry of a kind (R133). -/
structure PendingEntry where
  repeats : Nat
  detail : ReportDetail
  deriving DecidableEq, Repr

/-- What the Report Arbiter holds, the pending set and the mask by kind (R133), and the level of the ATTN line (R141). -/
structure ReportArbiter where
  pend : Vector (Option PendingEntry) 11
  mask : Vector Bool 11
  writeIndex : Fin 64
  occupancy : Nat
  marks : Vector Bool 64
  tally : Nat
  latestAddr : Option Nat
  latestKind : Option InsertKind
  suppressed : Bool
  attn : Bool
  deriving DecidableEq, Repr

/-! ## Directive Decoder (R146) -/

/-- An outcome record waiting in the outcome holder (R149). -/
structure OutcomeRecord where
  kind : BitVec 8
  code : OutcomeCode
  count : Nat
  detail : Word
  deriving DecidableEq, Repr

/-- What the Directive Decoder holds (R146). -/
structure DirectiveDecoder where
  latch : Vector Word 7
  marks : Vector Bool 7
  count : Nat
  holder : Option OutcomeRecord
  deriving DecidableEq, Repr

/-! ## Transfer Path (R158, R161, R156) -/

/-- The capture ring (R158). -/
structure CaptureRing where
  base : Nat
  slots : Nat
  deriving DecidableEq, Repr

/-- The record kind of a queue entry, with what is held for it (R161). -/
inductive RecordKind where
  | result (cell : Fin 512)
  | outcome
  | report (slot : Fin 64)
  deriving DecidableEq, Repr

/-- An entry of the insertion queue (R161). -/
structure QueueEntry where
  addr : Nat
  words : List Word
  kind : RecordKind
  deriving DecidableEq, Repr

/-- One word of a write transaction with its byte enables (R2, R156). -/
structure WordWrite where
  addr : Nat
  data : Word
  enables : BitVec 4
  deriving DecidableEq, Repr

/-- The slot run a write is in: its slot, and whether the run has already added to the torn count (R2, R6). -/
structure SlotRun where
  slot : Nat
  counted : Bool
  deriving DecidableEq, Repr

/-- The holder a stalled write waits for (R165). -/
inductive Stall where
  | result
  | outcome
  deriving DecidableEq, Repr

/-- A write at the upstream port: the words taken, as they will go downstream; the words not taken yet; the slot run;
how many records at the front of the queue must be answered before it may pass (R164); what stalls it (R165). -/
structure WriteProgress where
  addr : Nat
  taken : List WordWrite
  todo : List WordWrite
  run : Option SlotRun
  hold : Nat
  stall : Option Stall
  deriving DecidableEq, Repr

/-- A transaction that has arrived at the upstream port and has not been sent downstream (R156). -/
inductive Upstream where
  | write (p : WriteProgress)
  | read (r : ReadBurst)
  deriving DecidableEq, Repr

/-- A transaction of the bench sent downstream and not yet answered. A read keeps what the window map said of it as it
passed: whether it is a read of the result area, and the cells and the slots it will give a notice for (R68, R140, R158,
R163). -/
inductive Outstanding where
  | write (addr : Nat)
  | read (r : ReadBurst) (ofResult : Bool) (cells : List (Fin 512)) (slots : List (Fin 64))
  deriving DecidableEq, Repr

/-- What the Transfer Path holds: the window map (R158), the insertion queue (R161), and the transactions it holds or
waits for (R156, R163 to R167). The control region is absent while RESET is low (R157). -/
structure TransferPath where
  controlBase : Option Nat
  captureRing : Option CaptureRing
  resultArea : Option Nat
  queue : List QueueEntry
  inFlight : Bool
  upstream : List Upstream
  outstanding : List Outstanding
  deriving DecidableEq, Repr

/-! ## The ports (the model's own record: assumption log 16) -/

/-- What the downstream port has sent: a write of the bench, a read of the bench, or the write of an inserted record, which
is one burst of beats like any other write (R162, R168). -/
inductive DownEvent where
  | write (addr : Nat) (words : List WordWrite)
  | read (r : ReadBurst)
  | insert (w : WriteBurst)
  deriving DecidableEq, Repr

/-- What the upstream port has answered: the response of a write, or that of a read with the data returned. -/
inductive UpEvent where
  | writeReply (addr : Nat) (r : Response)
  | readReply (r : ReadBurst) (response : Response) (beats : List Beat)
  deriving DecidableEq, Repr

/-- All that has passed at the two ports, oldest first. -/
structure Ports where
  down : List DownEvent
  up : List UpEvent
  deriving DecidableEq, Repr

/-! ## The whole state -/

/-- The state of the part, one field per block of section 0.3, the level of RESET, the record of the ports, and the
queue of commands that are waiting. -/
structure State where
  resetLow : Bool
  tp : TransferPath
  dd : DirectiveDecoder
  fr : FrameReducer
  fm : FollowMonitor
  tsm : SpindleMonitor
  table : AlignmentTable
  sc : SweepController
  ip : ImagePatcher
  ra : ReportArbiter
  ports : Ports
  pending : List Instr
  deriving DecidableEq, Repr

/-- The manual gives the part no fault that stops it, so no command stops in one: a bus ERROR, a refused directive and
a torn frame are all effects on State (assumption log 1). -/
inductive Fault
  deriving DecidableEq, Repr

/-- Why a command is refused. -/
inductive Refusal where
  /-- A command whose meaning is not written yet: raised by `exec` alone; safe. No command of this model is refused. -/
  | notModelled (mnemonic : String)
  deriving DecidableEq, Repr

/-! ## The values after device reset -/

/-- R1. -/
def FrameReducer.reset : FrameReducer :=
  { frame := none, heads := 16, zoneCount := 1, wpr := 256, gapLimit := 3, zones := [0], torn := 0, badWedge := 0 }

/-- The empty history set (R24). -/
def History.empty : History := { acquiring := false, settling := false, following := false, slipped := false }

/-- R24. -/
def FollowRecord.reset : FollowRecord :=
  { state := .unseen, run := 0, acquire := 0, history := History.empty, noLockRaised := false,
    floor := 0, signal := 2048, window := 64 }

/-- The last-frame record absent with all its fields (R26). -/
def LastFrame.absent : LastFrame := { head := none, track := none, wedge := none }

/-- R24, R25, R26. -/
def FollowMonitor.reset : FollowMonitor :=
  { records := Vector.replicate 16 FollowRecord.reset, settle := 8, inhibit := 4, acquireLimit := 512,
    active := none, last := LastFrame.absent }

/-- R44, R50, R54, R57 (gathered in R62). -/
def SpindleMonitor.reset : SpindleMonitor :=
  { timebase := .internal, prescale := 6, prescaleCounter := 0, lossCount := 0, edge := .falling, nominal := 0,
    tolerance := 8, lastIndex := false, interval := 0, lastPeriod := none, spindle := .unknown,
    timerMode := .off, timerPeriod := 1, timerCounter := 0 }

/-- R63. -/
def CellRecord.reset : CellRecord :=
  { centre := none, jog := none, outcome := .untaken, kind := .centre, unread := false, passes := 0 }

/-- R63, R75. -/
def AlignmentTable.reset : AlignmentTable := { cells := Vector.replicate 512 CellRecord.reset }

/-- R99: also the values the opening of a cell clears the accumulator to (R85). -/
def Accumulator.clear : Accumulator :=
  { n := 0, sumP := 0, sumP2 := 0, sumW := 0, sumWP := 0, least := none, greatest := none, missed := 0, slips := 0 }

/-- R76, R98. -/
def SweepController.reset : SweepController :=
  { state := .idle, kind := .centre, firstHead := 0, lastHead := 0, zone := 0, quota := 1, deadline := 1,
    passes := .onePass, trigger := .now, atSpeed := false, limit := 0, spreadLimit := 0, jogThreshold := 0,
    currentHead := 0, passNumber := 0, passesCompleted := 0, revolutions := 0, acc := Accumulator.clear,
    holder := none }

/-- R113, R131. -/
def ImagePatcher.reset : ImagePatcher := { state := .unset, window := none, adjustment := 0, map := [] }

/-- R133, R144; ATTN is low after device reset (R141). -/
def ReportArbiter.reset : ReportArbiter :=
  { pend := Vector.replicate 11 none, mask := Vector.replicate 11 true, writeIndex := 0, occupancy := 0,
    marks := Vector.replicate 64 false, tally := 0, latestAddr := none, latestKind := none, suppressed := false,
    attn := false }

/-- R146, R154. -/
def DirectiveDecoder.reset : DirectiveDecoder :=
  { latch := Vector.replicate 7 0, marks := Vector.replicate 7 false, count := 0, holder := none }

/-- R158, R161: the windows absent and the queue empty. The control region is present from the release of RESET on
(R157). -/
def TransferPath.reset : TransferPath :=
  { controlBase := none, captureRing := none, resultArea := none, queue := [], inFlight := false,
    upstream := [], outstanding := [] }

/-- The part in device reset: RESET is low, every block holds its reset values, nothing has passed at the ports and no
command waits (assumption log 6). -/
def State.reset : State :=
  { resetLow := true, tp := TransferPath.reset, dd := DirectiveDecoder.reset, fr := FrameReducer.reset,
    fm := FollowMonitor.reset, tsm := SpindleMonitor.reset, table := AlignmentTable.reset,
    sc := SweepController.reset, ip := ImagePatcher.reset, ra := ReportArbiter.reset,
    ports := { down := [], up := [] }, pending := [] }

/-! ## Replacing one block -/

/-- The state with the Transfer Path replaced. -/
def State.withTp (s : State) (x : TransferPath) : State := { s with tp := x }
/-- The state with the Directive Decoder replaced. -/
def State.withDd (s : State) (x : DirectiveDecoder) : State := { s with dd := x }
/-- The state with the Frame Reducer replaced. -/
def State.withFr (s : State) (x : FrameReducer) : State := { s with fr := x }
/-- The state with the Follow Monitor replaced. -/
def State.withFm (s : State) (x : FollowMonitor) : State := { s with fm := x }
/-- The state with the Timebase and Spindle Monitor replaced. -/
def State.withTsm (s : State) (x : SpindleMonitor) : State := { s with tsm := x }
/-- The state with the Alignment Table replaced. -/
def State.withTable (s : State) (x : AlignmentTable) : State := { s with table := x }
/-- The state with the Sweep Controller replaced. -/
def State.withSc (s : State) (x : SweepController) : State := { s with sc := x }
/-- The state with the Image Patcher replaced. -/
def State.withIp (s : State) (x : ImagePatcher) : State := { s with ip := x }
/-- The state with the Report Arbiter replaced. -/
def State.withRa (s : State) (x : ReportArbiter) : State := { s with ra := x }
/-- The state with the record of the ports replaced. -/
def State.withPorts (s : State) (x : Ports) : State := { s with ports := x }

end Sys2Proof.Machine
end

