-- ==== Sys2Proof/Machine/Ops.lean ====
section
/-! DEFINITION. The shared operations: exact arithmetic and rounding (section 0.7), banks of records, the window map
(R158), the words of a burst (section 10.1), overlaps with the insertion queue (R163, R164), and entering the queue
(R161). -/

namespace Sys2Proof.Machine

/-! ## Arithmetic (section 0.7) -/

/-- A saturating count raised by `by_`: it stays at its limit (section 0.7). -/
def saturate (limit count by_ : Nat) : Nat := min limit (count + by_)

/-- `round(num / den)`: the nearest integer, a value halfway between two going to the one farther from zero
(section 0.7). The divisor is never 0 where the rules divide. -/
def roundDiv (num : Int) (den : Nat) : Int :=
  if num < 0 then -(((2 * num.natAbs + den) / (2 * den) : Nat) : Int)
  else (((2 * num.natAbs + den) / (2 * den) : Nat) : Int)

/-- The square root found bit by bit, from bit `b` down: the greatest `r'` with the bits of `r` above and
`r' * r'` at most `v`. -/
def isqrtFrom : Nat → Nat → Nat → Nat
  | 0, _, r => r
  | b + 1, v, r =>
    if (r + 2 ^ b) * (r + 2 ^ b) ≤ v then isqrtFrom b v (r + 2 ^ b) else isqrtFrom b v r

/-- `floor(√v)`, the greatest integer whose square is not above `v` (R101). -/
def isqrt (v : Nat) : Nat := isqrtFrom (v.log2 + 1) v 0

/-- An operand replaced by the nearer end of its range (section 9.3). -/
def clamp (low high x : Nat) : Nat := max low (min high x)

/-- The clamped-operand mask of one operand: bit `n` set when the clamp changed it (R150, section 11.3). -/
def clampMark (n x clamped : Nat) : Nat := if x = clamped then 0 else 2 ^ n

/-- The lowest operand number among the failing conditions of a check, if one fails (R150). -/
def lowestFailing : List (Bool × Nat) → Option Nat
  | [] => none
  | (failed, n) :: rest =>
    match failed, lowestFailing rest with
    | true, some m => some (min n m)
    | true, none => some n
    | false, r => r

/-- Two byte ranges, each a start and a length, share a byte. -/
def rangesOverlap (a la b lb : Nat) : Bool := decide (a < b + lb) && decide (b < a + la)

/-! ## Banks -/

/-- Every record of a bank changed by `f`. -/
def mapBank {α : Type} {n : Nat} (f : α → α) (v : Vector α n) : Vector α n :=
  ⟨⟨v.toList.map f⟩, by simp⟩

/-- How many marks of a bank are set. -/
def countMarks {n : Nat} (v : Vector Bool n) : Nat := v.toList.countP id

/-- The cell index 32 × h + z (R63). -/
def cellIndex (h : Fin 16) (z : Fin 32) : Fin 512 := ⟨32 * h.val + z.val, by omega⟩

/-- The head of a cell (R63, R64). -/
def cellHead (c : Fin 512) : Fin 16 := ⟨c.val / 32, by omega⟩

/-- The follow record of a head (R24). -/
def FollowMonitor.record (fm : FollowMonitor) (h : Fin 16) : FollowRecord := fm.records[h]

/-- The Follow Monitor with the record of one head replaced. -/
def FollowMonitor.setRecord (fm : FollowMonitor) (h : Fin 16) (r : FollowRecord) : FollowMonitor :=
  { fm with records := fm.records.set h r }

/-- The cell record of a cell index (R63). -/
def AlignmentTable.cell (t : AlignmentTable) (c : Fin 512) : CellRecord := t.cells[c]

/-- The table with one cell record replaced. -/
def AlignmentTable.setCell (t : AlignmentTable) (c : Fin 512) (r : CellRecord) : AlignmentTable :=
  { t with cells := t.cells.set c r }

/-- The unread flag of a cell set or cleared (R67, R68, R70). -/
def AlignmentTable.setUnread (t : AlignmentTable) (c : Fin 512) (b : Bool) : AlignmentTable :=
  t.setCell c { t.cell c with unread := b }

/-! ## The words of a burst (sections 0.7 and 10.1) -/

/-- The address of a burst's first beat: beats lie at multiples of 8 (section 10.1). -/
def firstBeat (a : Word) : Nat := a.toNat / 8 * 8

/-- The two words of one beat, the lower-addressed one in the lower half (section 0.7). -/
def Beat.words (a : Nat) (b : Beat) : List WordWrite :=
  [{ addr := a, data := b.data.extractLsb' 0 32, enables := b.lanes.extractLsb' 0 4 },
   { addr := a + 4, data := b.data.extractLsb' 32 32, enables := b.lanes.extractLsb' 4 4 }]

/-- The words of beats that lie one after another from an address, in ascending address order. -/
def beatWords (a : Nat) : List Beat → List WordWrite
  | [] => []
  | b :: rest => Beat.words a b ++ beatWords (a + 8) rest

/-- The words of a write in the order they are taken (R156). -/
def burstWords (w : WriteBurst) : List WordWrite := beatWords (firstBeat w.addr) w.beats

/-- The words a read asks for, beat by beat, with the lanes it names as their byte enables (section 10.1). -/
def laneWords (a : Nat) : List (BitVec 8) → List WordWrite
  | [] => []
  | l :: rest => Beat.words a { data := 0, lanes := l } ++ laneWords (a + 8) rest

/-- The words a read asks for. -/
def readWords (r : ReadBurst) : List WordWrite := laneWords (firstBeat r.addr) r.lanes

/-- All four byte enables of a word are set (section 0.7). -/
def WordWrite.full (w : WordWrite) : Bool := w.enables == 0xF#4

/-- No byte enable of a word is set: the word is not written (R2, R147). -/
def WordWrite.unwritten (w : WordWrite) : Bool := w.enables == 0#4

/-! ## The window map (R158) -/

/-- Where a word of a write lies: what its block does with it depends on this alone. -/
inductive Window where
  | mailbox (n : Nat)
  | capture (slot n : Nat)
  | image (offset : Nat)
  | elsewhere
  deriving DecidableEq, Repr

/-- The word of the mailbox an address lies in (R157). -/
def mailboxWord (tp : TransferPath) (a : Nat) : Option Nat :=
  match tp.controlBase with
  | some b => if b ≤ a ∧ a < b + 32 then some ((a - b) / 4) else none
  | none => none

/-- The capture slot and the word of it an address lies in (R2, R158). -/
def captureWord (tp : TransferPath) (a : Nat) : Option (Nat × Nat) :=
  match tp.captureRing with
  | some r => if r.base ≤ a ∧ a < r.base + 32 * r.slots then some ((a - r.base) / 32, (a - r.base) % 32 / 4) else none
  | none => none

/-- The byte offset in the image window of an address (R113). -/
def imageOffset (ip : ImagePatcher) (a : Nat) : Option Nat :=
  match ip.window with
  | some w => if w.base ≤ a ∧ a < w.base + w.length then some (a - w.base) else none
  | none => none

/-- The window an address of a written word lies in, among those a block watches for writes (R158). Each address lies
in at most one window. -/
def decodeWrite (tp : TransferPath) (ip : ImagePatcher) (a : Nat) : Window :=
  match mailboxWord tp a with
  | some n => .mailbox n
  | none =>
    match captureWord tp a with
    | some (slot, n) => .capture slot n
    | none =>
      match imageOffset ip a with
      | some o => .image o
      | none => .elsewhere

/-- The cell whose result record's word 7 is the word at an address (R64, R68). -/
def resultWord7 (tp : TransferPath) (a : Nat) : Option (Fin 512) :=
  match tp.resultArea with
  | some b =>
    if h : b ≤ a ∧ a < b + 16384 then
      if (a - b) % 32 = 28 then some ⟨(a - b) / 32, by omega⟩ else none
    else none
  | none => none

/-- A read asks for a byte of the result area as it stands (R68). -/
def asksResultArea (tp : TransferPath) (r : ReadBurst) : Bool :=
  match tp.resultArea with
  | some b => (readWords r).any fun w => !w.unwritten && decide (b ≤ w.addr) && decide (w.addr < b + Config.resultBytes)
  | none => false

/-- The report slot whose word 7 is the word at an address (R140, R157: slot s at 0x800 + 32 × s). -/
def slotWord7 (tp : TransferPath) (a : Nat) : Option (Fin 64) :=
  match tp.controlBase with
  | some b =>
    if h : b + 0x800 ≤ a ∧ a < b + 0x1000 then
      if (a - (b + 0x800)) % 32 = 28 then some ⟨(a - (b + 0x800)) / 32, by omega⟩ else none
    else none
  | none => none

/-- The cells a read gives a notice for: those of which it asks for a byte of word 7 (R68). -/
def noticeCells (tp : TransferPath) (r : ReadBurst) : List (Fin 512) :=
  (readWords r).filterMap fun w => if w.unwritten then none else resultWord7 tp w.addr

/-- The report slots a read gives a notice for (R140). -/
def noticeSlots (tp : TransferPath) (r : ReadBurst) : List (Fin 64) :=
  (readWords r).filterMap fun w => if w.unwritten then none else slotWord7 tp w.addr

/-! ## Overlap with queued records (R163, R164) -/

/-- A byte of the word that its enables name is a byte of the record (R163, R164). -/
def recordTouches (e : QueueEntry) (w : WordWrite) : Bool :=
  (List.range 4).any fun i =>
    w.enables.getLsbD i && decide (e.addr ≤ w.addr + i) && decide (w.addr + i < e.addr + Config.recordBytes)

/-- How many records from the front of the queue must be answered before every record the word overlaps has been: the
place of the last such record, counted from 1; 0 when it overlaps none (R164). -/
def holdDepth : List QueueEntry → WordWrite → Nat
  | [], _ => 0
  | e :: rest, w =>
    match holdDepth rest w with
    | 0 => if recordTouches e w then 1 else 0
    | d + 1 => d + 2

/-- A read overlaps a queued record (R163). -/
def readHeld (q : List QueueEntry) (r : ReadBurst) : Bool :=
  q.any fun e => (readWords r).any fun w => recordTouches e w

/-! ## The insertion queue (R161) -/

/-- The free entries of the insertion queue: 16 less the records it holds (R161). -/
def freeEntries (tp : TransferPath) : Nat := Config.queueEntries - tp.queue.length

/-- A read already sent loses its notice for the cell or the slot of a record that now enters the queue (R163). -/
def spoilNotice (k : RecordKind) : Outstanding → Outstanding
  | .write a => .write a
  | .read r ofResult cells slots =>
    match k with
    | .result c => .read r ofResult (cells.filter fun x => x != c) slots
    | .report n => .read r ofResult cells (slots.filter fun x => x != n)
    | .outcome => .read r ofResult cells slots

/-- A record joins the end of the insertion queue (R161); reads already sent lose their notice for it (R163). -/
def enqueue (e : QueueEntry) (tp : TransferPath) : TransferPath :=
  { tp with queue := tp.queue ++ [e], outstanding := tp.outstanding.map (spoilNotice e.kind) }

/-! ## The ports -/

/-- The downstream port sends. -/
def State.sendDown (s : State) (e : DownEvent) : State :=
  s.withPorts { s.ports with down := s.ports.down ++ [e] }

/-- The upstream port answers. -/
def State.replyUp (s : State) (e : UpEvent) : State :=
  s.withPorts { s.ports with up := s.ports.up ++ [e] }

/-- A command's effect while RESET is high; while RESET is low the part does nothing (R62, R167; log 7). -/
def whenRunning (s : State) (f : State → State) : State := if s.resetLow then s else f s

end Sys2Proof.Machine
end

