-- ==== Sys2Proof/Machine/Layouts.lean ====
section
/-! DEFINITION. The record layouts and the codes of chapter 11 (R168, R169): the annotation words, the outcome record,
the report record and the result record, and the contents of frame words 0 to 4. -/

namespace Sys2Proof.Machine

/-! ## Codes (section 11.6) -/

/-- Section 11.6. -/
def Region.code : Region → Nat
  | .normal => 0
  | .quadrature => 1

/-- Section 11.6. -/
def Grade.code : Grade → Nat
  | .good => 0
  | .weak => 1
  | .clamped => 2
  | .void => 3
  | .foreign => 4

/-- Section 11.6. -/
def FollowState.code : FollowState → Nat
  | .unseen => 0
  | .dormant => 1
  | .acquiring => 2
  | .settling => 3
  | .following => 4
  | .slipped => 5

/-- Section 11.6. -/
def SweepState.code : SweepState → Nat
  | .idle => 0
  | .armed => 1
  | .awaitHead => 2
  | .measuring => 3

/-- Section 11.6. -/
def SpindleState.code : SpindleState → Nat
  | .unknown => 0
  | .atSpeed => 1
  | .offSpeed => 2
  | .stopped => 3

/-- Section 11.6. -/
def Quantity.code : Quantity → Nat
  | .centre => 0
  | .jog => 1

/-- Section 11.6. NONE never appears in a record; it has no code there and stands as 0. -/
def CellOutcome.code : CellOutcome → Nat
  | .untaken => 0
  | .accepted => 1
  | .rejected => 2
  | .edge => 3
  | .noSignal => 4
  | .short => 5
  | .noHead => 6

/-- Section 11.6. -/
def OutcomeCode.code : OutcomeCode → Nat
  | .taken => 1
  | .takenClamped => 2
  | .incomplete => 3
  | .unknownKind => 4
  | .badValue => 5
  | .busy => 6
  | .overlap => 7
  | .state => 8
  | .full => 9

/-- The place of a kind in the pending set and the mask: its code less 1. -/
def ReportKind.index : ReportKind → Fin 11
  | .referenceLost => 0
  | .insertFault => 1
  | .spindleFault => 2
  | .sweepAborted => 3
  | .resultOverrun => 4
  | .headRequest => 5
  | .cellClosed => 6
  | .sweepDone => 7
  | .noLock => 8
  | .spindleReady => 9
  | .frameFault => 10

/-- Section 11.6: the codes 1 to 11. -/
def ReportKind.code (k : ReportKind) : Nat := k.index.val + 1

/-- The level of a kind: URGENT for the first five (R134). -/
def ReportKind.urgent : ReportKind → Bool
  | .referenceLost => true
  | .insertFault => true
  | .spindleFault => true
  | .sweepAborted => true
  | .resultOverrun => true
  | .headRequest => false
  | .cellClosed => false
  | .sweepDone => false
  | .noLock => false
  | .spindleReady => false
  | .frameFault => false

/-- The kinds in the order a grant looks at them: URGENT before ROUTINE, and within a level the default order
(R134, R138). -/
def ReportKind.order : List ReportKind :=
  [.referenceLost, .insertFault, .spindleFault, .sweepAborted, .resultOverrun,
   .headRequest, .cellClosed, .sweepDone, .noLock, .spindleReady, .frameFault]

/-- Section 11.6. -/
def AbortReason.code : AbortReason → Nat
  | .reference => 1
  | .spindle => 2

/-- Section 11.6. -/
def DoneReason.code : DoneReason → Nat
  | .complete => 1
  | .halted => 2

/-- Section 11.6. -/
def InsertKind.code : InsertKind → Nat
  | .result => 1
  | .outcome => 2
  | .report => 3

/-- The record kind of a queue entry without what is held for it (R161). -/
def RecordKind.insertKind : RecordKind → InsertKind
  | .result _ => .result
  | .outcome => .outcome
  | .report _ => .report

/-! ## Fields of a word (R168) -/

/-- An unsigned field of `width` bits placed at bit `lo`. -/
def place (lo width v : Nat) : Word := (BitVec.ofNat 32 (v % 2 ^ width)) <<< lo

/-- A signed field in two's complement of its own width placed at bit `lo`. -/
def placeInt (lo width : Nat) (v : Int) : Word := ((BitVec.ofInt width v).setWidth 32) <<< lo

/-- A flag at bit `lo`. -/
def placeFlag (lo : Nat) (b : Bool) : Word := place lo 1 b.toNat

/-! ## Wedge frame (section 11.1) -/

/-- Word 0: head, wedge number, servo-mark-found flag. -/
def frameHead (w : Word) : Fin 16 := (bits w 0 4).toFin
/-- Word 0 bits 13:4. -/
def frameWedge (w : Word) : Nat := (bits w 4 10).toNat
/-- Word 0 bit 15. -/
def frameMark (w : Word) : Bool := w.getLsbD 15
/-- Word 1 bits 23:0. -/
def frameTrack (w : Word) : Nat := (bits w 0 24).toNat
/-- Word 1 bit 31. -/
def frameTrackValid (w : Word) : Bool := w.getLsbD 31
/-- Words 2, 3 and 4 bits 15:0: burst A, burst C, read amplitude. -/
def frameLow (w : Word) : Nat := (bits w 0 16).toNat
/-- Words 2 and 3 bits 31:16: burst B, burst D. -/
def frameHigh (w : Word) : Nat := (bits w 16 16).toNat

/-- Annotation word 5 (R18). -/
def annotation5 (r : Reduction) (f : FollowState) : Word :=
  placeInt 0 10 r.offset ||| place 10 1 r.region.code ||| place 11 3 r.grade.code ||| place 14 3 f.code
    ||| place 17 5 r.zone.val ||| placeFlag 22 r.zoneUnknown

/-- Annotation word 6 (R19). -/
def annotation6 (accepted : Bool) (n : Nat) (st : SweepState) : Word :=
  place 0 13 n ||| placeFlag 16 accepted ||| place 18 2 st.code

/-- The signal sum field of word 7: the sum, and above the range that R13 and section 11.1 give it a free value (DESIGN CHOICE,
assumption log 26). -/
def signalField (signalSum : Nat) : BitVec 17 :=
  if signalSum ≤ Config.maxSignalSum then BitVec.ofNat 17 signalSum else Config.wideSignalSum signalSum

/-- Annotation word 7 (R20). -/
def annotation7 (signalSum gap : Nat) : Word := (signalField signalSum).setWidth 32 ||| place 17 10 gap

/-! ## Outcome record (section 11.3) -/

/-- The eight words of an outcome record. -/
def outcomeWords (r : OutcomeRecord) : List Word :=
  [place 0 8 r.kind.toNat ||| place 8 8 r.code.code, place 0 16 r.count, r.detail, 0, 0, 0, 0, 0]

/-! ## Report record (section 11.4) -/

/-- The eight words of a report record. -/
def reportWords (k : ReportKind) (repeats : Nat) (d : ReportDetail) : List Word :=
  [place 0 8 k.code ||| placeFlag 8 k.urgent ||| place 16 8 repeats,
   match d.place with
   | some (h, z) => place 0 8 h.val ||| place 8 8 z.val ||| placeFlag 16 true
   | none => 0,
   place 0 32 d.a, place 0 32 d.b, 0, 0, 0, 0]

/-- Detail B of INSERT FAULT: the record kind in bits 7:0 and the fault count in bits 31:16 (section 11.4). -/
def faultDetail (kind count : Nat) : Nat := kind + count * 65536

/-! ## Result record (section 11.5) -/

/-- The history set in bits 3:0 (section 11.5). -/
def historyBits (h : History) : Word :=
  placeFlag 0 h.acquiring ||| placeFlag 1 h.settling ||| placeFlag 2 h.following ||| placeFlag 3 h.slipped

/-- The eight words of a result record with its overrun flag. An absent field is 0 in all its bits (R169). -/
def resultWords (r : ResultRecord) (overrun : Bool) : List Word :=
  [place 0 8 r.head.val ||| place 8 8 r.zone.val ||| place 16 2 r.kind.code ||| place 24 3 r.outcome.code,
   place 0 13 r.n,
   (match r.value with
    | some v => placeInt 0 16 v ||| placeFlag 31 true
    | none => 0) ||| (match r.extremes with
    | some _ => placeFlag 30 true
    | none => 0),
   match r.kind with
   | .centre => place 0 16 r.spread
   | .jog =>
     match r.extremes with
     | some (lo, hi) => placeInt 0 16 lo ||| placeInt 16 16 hi
     | none => 0,
   place 0 16 r.missed ||| place 16 16 r.slips,
   historyBits r.history,
   0,
   place 0 16 r.passNumber ||| placeFlag 31 overrun]

end Sys2Proof.Machine
end

