-- ==== Sys2Proof/Machine/Flags.lean ====
section
/-! DEFINITION. The flags of the Report Arbiter: raising a report (R135), clearing an entry (R136), the occupied marks,
the occupancy and ATTN (R139 to R142), and the insert-fault record (R143). -/

namespace Sys2Proof.Machine

/-! ## The pending set (R135, R136) -/

/-- The pending entry of a kind. -/
def ReportArbiter.entry (ra : ReportArbiter) (k : ReportKind) : Option PendingEntry := ra.pend[k.index]

/-- The enable of a kind in the report mask. -/
def ReportArbiter.enabled (ra : ReportArbiter) (k : ReportKind) : Bool := ra.mask[k.index]

/-- The pending entry of a kind replaced. -/
def ReportArbiter.setEntry (ra : ReportArbiter) (k : ReportKind) (e : Option PendingEntry) : ReportArbiter :=
  { ra with pend := ra.pend.set k.index e }

/-- No head and zone, and both details 0 (R134). -/
def ReportDetail.blank : ReportDetail := { place := none, a := 0, b := 0 }

/-- The detail after a further raise while pending, the last column of the table in R134. -/
def mergeDetail (k : ReportKind) (old new : ReportDetail) : ReportDetail :=
  match k with
  | .referenceLost => old
  | .frameFault => old
  | .noLock => { new with a := old.a ||| new.a }
  | .insertFault => new
  | .spindleFault => new
  | .sweepAborted => new
  | .resultOverrun => new
  | .headRequest => new
  | .cellClosed => new
  | .sweepDone => new
  | .spindleReady => new

/-- The entry a raise leaves (R135). -/
def raisedEntry (k : ReportKind) (d : ReportDetail) : Option PendingEntry → PendingEntry
  | none => { repeats := 1, detail := d }
  | some e => { repeats := saturate 255 e.repeats 1, detail := mergeDetail k e.detail d }

/-- A raise at the Report Arbiter (R135): a kind masked off is not pended. -/
def ReportArbiter.raise (ra : ReportArbiter) (k : ReportKind) (d : ReportDetail) : ReportArbiter :=
  if ra.enabled k then ra.setEntry k (some (raisedEntry k d (ra.entry k))) else ra

/-- A source raises a report kind (R135). -/
def State.raise (s : State) (k : ReportKind) (d : ReportDetail) : State := s.withRa (s.ra.raise k d)

/-- The pending entries of some kinds cleared (R136). -/
def ReportArbiter.clearEntries (ra : ReportArbiter) (ks : List ReportKind) : ReportArbiter :=
  ks.foldl (fun r k => r.setEntry k none) ra

/-- The pending entries of some kinds cleared (R136). -/
def State.clearReports (s : State) (ks : List ReportKind) : State := s.withRa (s.ra.clearEntries ks)

/-! ## Occupied marks, occupancy and ATTN (R139 to R142) -/

/-- The occupancy replaced; ATTN is asserted if and only if it is above 0 (R141). -/
def ReportArbiter.setOccupancy (ra : ReportArbiter) (n : Nat) : ReportArbiter :=
  { ra with occupancy := n, attn := decide (0 < n) }

/-- A slot's occupied mark is set and the occupancy goes up by 1 (R139). -/
def ReportArbiter.occupy (ra : ReportArbiter) (n : Fin 64) : ReportArbiter :=
  { ra with marks := ra.marks.set n true }.setOccupancy (ra.occupancy + 1)

/-- A slot whose occupied mark is set has it cleared, and the occupancy goes down by 1; a slot whose mark is clear is
left as it is (R140, R142; assumption log 22). -/
def ReportArbiter.free (ra : ReportArbiter) (n : Fin 64) : ReportArbiter :=
  if ra.marks[n] then { ra with marks := ra.marks.set n false }.setOccupancy (ra.occupancy - 1) else ra

/-! ## The insert-fault record (R143) -/

/-- INSERT FAULT raised with the latest address and record kind (R143). -/
def ReportArbiter.raiseInsertFault (ra : ReportArbiter) : ReportArbiter :=
  ra.raise .insertFault
    { place := none, a := ra.latestAddr.getD 0, b := ((ra.latestKind.map InsertKind.code).getD 0) }

/-- A record is an INSERT FAULT report: a report record whose kind field holds its code (section 11.4). -/
def QueueEntry.isInsertFault (e : QueueEntry) : Bool :=
  match e.kind with
  | .report _ => bits (e.words.getD 0 0) 0 8 == BitVec.ofNat 8 ReportKind.insertFault.code
  | .result _ => false
  | .outcome => false

/-- The fault count an INSERT FAULT report carries (section 11.4). -/
def QueueEntry.faultCount (e : QueueEntry) : Nat := (bits (e.words.getD 3 0) 16 16).toNat

/-- An insert fault is counted, and INSERT FAULT is raised or held under suppression (R143). -/
def ReportArbiter.insertFault (ra : ReportArbiter) (e : QueueEntry) : ReportArbiter :=
  let counted := { ra with
    tally := saturate Config.countLimit ra.tally (1 + if e.isInsertFault then e.faultCount else 0)
    latestAddr := some e.addr
    latestKind := some e.kind.insertKind }
  if e.isInsertFault then { counted with suppressed := true }
  else if counted.suppressed then counted
  else counted.raiseInsertFault

/-- An inserted write has completed OKAY: suppression ends, and faults held under it are raised once (R143). -/
def ReportArbiter.insertOkay (ra : ReportArbiter) : ReportArbiter :=
  if ra.suppressed then
    if 0 < ra.tally then { ra with suppressed := false }.raiseInsertFault else { ra with suppressed := false }
  else ra

end Sys2Proof.Machine
end

