-- ==== Sys2Proof/Machine/Reduction.lean ====
section
/-! DEFINITION. Chapter 1: the torn count and the frame assembly record (R3 to R8), and the reduction of a frame: zone,
position arithmetic and grade (R9 to R17). -/

namespace Sys2Proof.Machine

/-! ## Fault counts (R5 to R8) -/

/-- A frame fault raises FRAME FAULT; its counts are read at the grant (R8, R134). -/
def State.raiseFrameFault (s : State) : State := s.raise .frameFault ReportDetail.blank

/-- The torn count goes up by 1, saturating, and FRAME FAULT is raised (R8). -/
def State.countTorn (s : State) : State :=
  (s.withFr { s.fr with torn := saturate Config.countLimit s.fr.torn 1 }).raiseFrameFault

/-- The bad-wedge count goes up by 1, saturating, and FRAME FAULT is raised (R8, R20). -/
def State.countBadWedge (s : State) : State :=
  (s.withFr { s.fr with badWedge := saturate Config.countLimit s.fr.badWedge 1 }).raiseFrameFault

/-- The frame assembly record is discarded and the torn count goes up by 1 (R3, R5). -/
def State.tearFrame (s : State) : State := (s.withFr { s.fr with frame := none }).countTorn

/-- SET WINDOWS, SET GEOMETRY and SET ZONES, taken, abandon a frame that is assembling (R7). -/
def State.abandonFrame (s : State) : State :=
  match s.fr.frame with
  | some _ => s.tearFrame
  | none => s

/-! ## The frame assembly record (R3, R4) -/

/-- The record that the full write of word 0 starts (R3). -/
def startFrame (slot : Nat) (w : Word) : FrameRecord :=
  { slot := slot, expects := 1, head := frameHead w, wedge := frameWedge w, markFound := frameMark w,
    track := 0, trackValid := false, burstA := 0, burstB := 0, burstC := 0, burstD := 0, amplitude := 0,
    reduction := none, shown := .unseen }

/-- Words 1 to 4 are latched into the record, and the next expected word goes up by 1 (R4). -/
def latchFrameWord (f : FrameRecord) (w : Word) : FrameRecord :=
  match f.expects with
  | 1 => { f with track := frameTrack w, trackValid := frameTrackValid w, expects := 2 }
  | 2 => { f with burstA := frameLow w, burstB := frameHigh w, expects := 3 }
  | 3 => { f with burstC := frameLow w, burstD := frameHigh w, expects := 4 }
  | 4 => { f with amplitude := frameLow w, expects := 5 }
  | _ => f

/-! ## Zone (R12) -/

/-- The greatest zone number from `z` upward in the list whose first track is not above the track, or `best` when none
is (R12). -/
def zoneFrom (track : Nat) : List Nat → Nat → Nat → Nat
  | [], _, best => best
  | first :: rest, z, best => zoneFrom track rest (z + 1) (if first ≤ track then z else best)

/-- The zone of a valid track (R12). -/
def zoneOf (zones : List Nat) (track : Nat) : Fin 32 := Fin.ofNat 32 (zoneFrom track zones 0 0)

/-! ## Track-offset arithmetic (R13 to R17) -/

/-- The differences and sums of the floored bursts (R13). -/
structure BurstSums where
  n : Int
  q : Int
  sn : Nat
  sq : Nat
  deriving DecidableEq, Repr

/-- Floor subtraction, stopping at zero, and the four figures, each exact: Sn and Sq may each reach 131070 and their sum 262140,
where R13 gives the sum a range of 0 to 131070. The region and the WEAK test read the exact sums (R10, R14; DESIGN CHOICE,
assumption log 26). -/
def burstSums (f : FrameRecord) (floor : Nat) : BurstSums :=
  let a := f.burstA - floor
  let b := f.burstB - floor
  let c := f.burstC - floor
  let d := f.burstD - floor
  { n := (a : Int) - b, q := (c : Int) - d, sn := a + b, sq := c + d }

/-- The region, for sums that are not both zero (R14). -/
def chooseRegion (x : BurstSums) : Region :=
  if x.sn = 0 then .quadrature
  else if x.sq = 0 then .normal
  else if x.n.natAbs * x.sq ≤ x.q.natAbs * x.sn then .normal
  else .quadrature

/-- The offset as computed, before the clamp of +512: R15 in the NORMAL region, R16 in QUADRATURE. -/
def rawOffset (x : BurstSums) : Int :=
  match chooseRegion x with
  | .normal => roundDiv (256 * x.n) x.sn
  | .quadrature =>
    let r := roundDiv (256 * x.q) x.sq
    if 0 ≤ x.n then 256 - r else -(256 - r)

/-- A frame that is VOID whatever its offset (R10). -/
def isVoid (f : FrameRecord) (wpr : Nat) (x : BurstSums) : Bool :=
  !f.markFound || !f.trackValid || decide (wpr ≤ f.wedge) || (decide (x.sn = 0) && decide (x.sq = 0))

/-- The zone and the zone-unknown flag of a frame that is not FOREIGN (R12). -/
def frameZone (f : FrameRecord) (zones : List Nat) : Fin 32 × Bool :=
  if f.trackValid then (zoneOf zones f.track, false) else (31, true)

/-- The reduction of a frame under the geometry, the zone list, and its head's floors F and S (R9 to R17). -/
def reduceFrame (fr : FrameReducer) (floor signal : Nat) (f : FrameRecord) : Reduction :=
  if fr.heads ≤ f.head.val then
    { offset := 0, region := .normal, grade := .foreign, zone := 31, zoneUnknown := true, signalSum := 0 }
  else
    let x := burstSums f floor
    let zone := frameZone f fr.zones
    if isVoid f fr.wpr x then
      { offset := 0, region := .normal, grade := .void, zone := zone.1, zoneUnknown := zone.2,
        signalSum := x.sn + x.sq }
    else if rawOffset x = 512 then
      { offset := 511, region := chooseRegion x, grade := .clamped, zone := zone.1, zoneUnknown := zone.2,
        signalSum := x.sn + x.sq }
    else
      { offset := rawOffset x, region := chooseRegion x,
        grade := if x.sn + x.sq < signal then .weak else .good,
        zone := zone.1, zoneUnknown := zone.2, signalSum := x.sn + x.sq }

end Sys2Proof.Machine
end

