-- ==== Sys2Proof/Machine/Follow.lean ====
section
/-! DEFINITION. Chapter 2: the Follow Monitor's judgement of a frame (R27 to R38). -/

namespace Sys2Proof.Machine

/-- What the Follow Monitor takes from the Frame Reducer (R27). -/
structure FrameSeen where
  head : Fin 16
  wedge : Nat
  markFound : Bool
  track : Nat
  trackValid : Bool
  grade : Grade
  offset : Int
  deriving DecidableEq, Repr

/-- The inputs of R27 of a frame with its reduction. -/
def seenFrame (f : FrameRecord) (r : Reduction) : FrameSeen :=
  { head := f.head, wedge := f.wedge, markFound := f.markFound, track := f.track, trackValid := f.trackValid,
    grade := r.grade, offset := r.offset }

/-- Entry to ACQUIRING through a switch, a seek, a wedge gap or a fall from SETTLING (R31). -/
def enterAcquiring (r : FollowRecord) : FollowRecord :=
  { r with state := .acquiring, run := 0, acquire := 0, noLockRaised := false,
           history := { r.history with acquiring := true } }

/-- What the entry checks find (R28 to R30): the monitor after them, the count g, and the missed wedges handed on. -/
structure EntryChecks where
  fm : FollowMonitor
  gap : Nat
  missed : Nat
  deriving DecidableEq, Repr

/-- The head switch (R28). -/
def headSwitch (fm : FollowMonitor) (h : Fin 16) : FollowMonitor :=
  let parked : FollowMonitor :=
    match fm.active with
    | some a => fm.setRecord a { fm.record a with state := .dormant }
    | none => fm
  { parked with active := some h, last := { head := some h, track := none, wedge := none } }.setRecord h
    (enterAcquiring (parked.record h))

/-- The missed-wedge count g (R30). -/
def wedgeGap (wpr wedge last : Nat) : Nat := (((wedge : Int) - last - 1) % (wpr : Int)).toNat

/-- A frame of the active head is a seek (R29). -/
def isSeek (fm : FollowMonitor) (x : FrameSeen) : Bool :=
  x.trackValid && (match fm.last.track with
    | some t => t != x.track
    | none => false)

/-- The entry checks (R27 step 1). -/
def entryChecks (wpr gapLimit : Nat) (fm : FollowMonitor) (x : FrameSeen) : EntryChecks :=
  if fm.active ≠ some x.head then { fm := headSwitch fm x.head, gap := 0, missed := 0 }
  else if isSeek fm x then
    { fm := fm.setRecord x.head (enterAcquiring (fm.record x.head)), gap := 0, missed := 0 }
  else if x.grade = .void then { fm := fm, gap := 0, missed := 0 }
  else
    match fm.last.wedge with
    | none => { fm := fm, gap := 0, missed := 0 }
    | some last =>
      let g := wedgeGap wpr x.wedge last
      if g ≤ gapLimit then { fm := fm, gap := g, missed := g }
      else { fm := fm.setRecord x.head (enterAcquiring (fm.record x.head)), gap := g, missed := 0 }

/-- A frame is in window: graded GOOD with |p| ≤ W (R32). -/
def inWindow (grade : Grade) (p : Int) (window : Nat) : Bool :=
  decide (grade = .good) && decide (p.natAbs ≤ window)

/-- The head enters FOLLOWING; its run count keeps its value (R33, R35, R37). -/
def enterFollowing (r : FollowRecord) : FollowRecord :=
  { r with state := .following, history := { r.history with following := true } }

/-- The judgement of a frame in its head's follow state (R33 to R35). A frame finds no head UNSEEN or DORMANT, since a
frame of such a head is a switch (R28). -/
def judgeFrame (settle inhibit : Nat) (grade : Grade) (p : Int) (r : FollowRecord) : FollowRecord :=
  let inside := inWindow grade p r.window
  match r.state with
  | .acquiring =>
    if inside then
      let settled := { r with state := .settling, run := 1, history := { r.history with settling := true } }
      if settle ≤ 1 then enterFollowing settled else settled
    else { r with run := 0 }
  | .settling =>
    if inside then
      let counted := { r with run := saturate 255 r.run 1 }
      if settle ≤ counted.run then enterFollowing counted else counted
    else enterAcquiring r
  | .following =>
    if grade = .void ∨ (grade = .good ∧ ¬ inside) then
      { r with state := .slipped, run := 0, history := { r.history with slipped := true } }
    else r
  | .slipped =>
    if inside then
      let counted := { r with run := saturate 255 r.run 1 }
      if inhibit ≤ counted.run then enterFollowing counted else counted
    else { r with run := 0 }
  | .unseen => r
  | .dormant => r

/-- The frame was a slip: it took the head from FOLLOWING to SLIPPED (R34). -/
def isSlip (before after : FollowRecord) : Bool :=
  decide (before.state = .following) && decide (after.state = .slipped)

/-- A head that stands in ACQUIRING or SETTLING after the judgement (R36). -/
def seeking (r : FollowRecord) : Bool := decide (r.state = .acquiring) || decide (r.state = .settling)

/-- The acquire count (R36). -/
def countAcquire (r : FollowRecord) : FollowRecord :=
  if seeking r then { r with acquire := saturate 4095 r.acquire 1 } else r

/-- NO LOCK is to be raised for the counted record (R36): the head stands in ACQUIRING or SETTLING after the judgement. R36 names no
state in this condition, and R40 says "its next frame in ACQUIRING or SETTLING", which leaves open whether a frame that takes
the head from there to FOLLOWING raises it under a limit that SET FOLLOW lowered. DESIGN CHOICE: it does not (assumption
log 27). -/
def noLockDue (limit : Nat) (r : FollowRecord) : Bool :=
  seeking r && decide (limit ≤ r.acquire) && !r.noLockRaised

/-- The last-frame record brought up to date (R27 step 4). -/
def updateLast (wpr : Nat) (x : FrameSeen) (l : LastFrame) : LastFrame :=
  { l with track := if x.trackValid then some x.track else l.track
           wedge := if x.markFound && decide (x.wedge < wpr) then some x.wedge else l.wedge }

/-- What the Follow Monitor hands on (R38), with the monitor after the frame. -/
structure FollowResult where
  fm : FollowMonitor
  gap : Nat
  missed : Nat
  slip : Bool
  noLock : Bool
  deriving DecidableEq, Repr

/-- A frame reaches the Follow Monitor: the steps of R27. -/
def followFrame (wpr gapLimit : Nat) (fm : FollowMonitor) (x : FrameSeen) : FollowResult :=
  let e := entryChecks wpr gapLimit fm x
  let before := e.fm.record x.head
  let judged := judgeFrame e.fm.settle e.fm.inhibit x.grade x.offset before
  let counted := countAcquire judged
  let due := noLockDue e.fm.acquireLimit counted
  let final := if due then { counted with noLockRaised := true } else counted
  { fm := { e.fm.setRecord x.head final with last := updateLast wpr x e.fm.last }
    gap := e.gap
    missed := e.missed
    slip := isSlip before judged
    noLock := due }

/-- The answer for word 5: the follow state of the frame's head after this frame, from steps 1 and 2 of R27 (R38). -/
def answerFollow (wpr gapLimit : Nat) (fm : FollowMonitor) (x : FrameSeen) : FollowState :=
  let e := entryChecks wpr gapLimit fm x
  (judgeFrame e.fm.settle e.fm.inhibit x.grade x.offset (e.fm.record x.head)).state

/-- The detail of NO LOCK for a head: the set holding it (R36, section 11.4). -/
def noLockDetail (h : Fin 16) : ReportDetail := { place := none, a := 2 ^ h.val, b := 0 }

/-- The Follow Monitor acts on a completed frame (R20 step 1). -/
def State.followStep (s : State) (x : FrameSeen) : State × FollowResult :=
  let r := followFrame s.fr.wpr s.fr.gapLimit s.fm x
  let s1 := s.withFm r.fm
  (if r.noLock then s1.raise .noLock (noLockDetail x.head) else s1, r)

end Sys2Proof.Machine
end

