-- ==== Sys2Proof/Machine/Sweeps.lean ====
section
/-! DEFINITION. Chapters 5 and 6: passes, qualification, accumulation, evaluation, closes, result records, and the ends
of a sweep (R79 to R111). -/

namespace Sys2Proof.Machine

/-! ## The accumulator (R100) -/

/-- The weight of a frame (R100). -/
def frameWeight (amplitude threshold : Nat) : Nat := amplitude - threshold

/-- The least offset with weight (R100). -/
def lesser (x : Option Int) (p : Int) : Option Int :=
  match x with
  | none => some p
  | some m => some (min m p)

/-- The greatest offset with weight (R100). -/
def greater (x : Option Int) (p : Int) : Option Int :=
  match x with
  | none => some p
  | some m => some (max m p)

/-- A frame enters the accumulator with its offset and weight (R100). -/
def accumulate (a : Accumulator) (p : Int) (w : Nat) : Accumulator :=
  { a with
    n := a.n + 1
    sumP := a.sumP + p
    sumP2 := a.sumP2 + p.natAbs * p.natAbs
    sumW := a.sumW + w
    sumWP := a.sumWP + (w : Int) * p
    least := if 0 < w then lesser a.least p else a.least
    greatest := if 0 < w then greater a.greatest p else a.greatest }

/-- Missed wedges and a slip added to the totals, both saturating (R87). -/
def addMissed (a : Accumulator) (missed : Nat) (slip : Bool) : Accumulator :=
  { a with missed := saturate Config.countLimit a.missed missed
           slips := saturate Config.countLimit a.slips slip.toNat }

/-! ## Evaluation (R101 to R106) -/

/-- The mean (R101). -/
def centreMean (a : Accumulator) : Int := roundDiv a.sumP a.n

/-- The variance (R101). -/
def centreVariance (a : Accumulator) : Nat :=
  (((a.n : Int) * a.sumP2 - a.sumP * a.sumP).toNat) / (a.n * a.n)

/-- The spread (R101). -/
def centreSpread (a : Accumulator) : Nat := isqrt (centreVariance a)

/-- The centroid (R103). -/
def jogCentroid (a : Accumulator) : Int := roundDiv a.sumWP a.sumW

/-- What a close carries: its outcome, value, spread, and pmin with pmax (R101 to R106). -/
structure Figures where
  outcome : CellOutcome
  value : Option Int
  spread : Nat
  extremes : Option (Int × Int)
  deriving DecidableEq, Repr

/-- pmin and pmax, present together (R99). -/
def accExtremes (a : Accumulator) : Option (Int × Int) :=
  match a.least, a.greatest with
  | some lo, some hi => some (lo, hi)
  | some _, none => none
  | none, some _ => none
  | none, none => none

/-- The centroid lies on the least or the greatest weighted offset: not bracketed (R104). -/
def atEdge (j : Int) (e : Option (Int × Int)) : Bool :=
  match e with
  | some (lo, hi) => decide (j ≤ lo) || decide (hi ≤ j)
  | none => false

/-- The outcome of a quota close (R102, R103, R104). -/
def quotaOutcome (sc : SweepController) : CellOutcome :=
  match sc.kind with
  | .centre =>
    if (centreMean sc.acc).natAbs ≤ sc.limit ∧ centreSpread sc.acc ≤ sc.spreadLimit then .accepted else .rejected
  | .jog =>
    if sc.acc.sumW = 0 then .noSignal
    else if atEdge (jogCentroid sc.acc) (accExtremes sc.acc) then .edge
    else if sc.limit < (jogCentroid sc.acc).natAbs then .rejected
    else .accepted

/-- The figures a close in MEASURING computes from the accumulator, under an outcome (R101, R103, R105). -/
def accFigures (sc : SweepController) (o : CellOutcome) : Figures :=
  match sc.kind with
  | .centre => { outcome := o, value := some (centreMean sc.acc), spread := centreSpread sc.acc, extremes := none }
  | .jog =>
    if sc.acc.sumW = 0 then { outcome := o, value := none, spread := 0, extremes := none }
    else { outcome := o, value := some (jogCentroid sc.acc), spread := 0, extremes := accExtremes sc.acc }

/-- Why a cell closes: at its quota (R86), or at the deadline with the cell open or never opened (R89). -/
inductive CloseCause where
  | quota
  | short
  | noHead
  deriving DecidableEq, Repr

/-- The outcome and values of a close (R90 step 1). -/
def closeFigures (sc : SweepController) : CloseCause → Figures
  | .quota => accFigures sc (quotaOutcome sc)
  | .short => accFigures sc .short
  | .noHead => { outcome := .noHead, value := none, spread := 0, extremes := none }

/-- The cell as a close writes it: last outcome, last kind, passes written, and an ACCEPTED value committed
(R65, R66). -/
def closedCell (sc : SweepController) (x : Figures) (c : CellRecord) : CellRecord :=
  let written := { c with outcome := x.outcome, kind := sc.kind, passes := sc.passNumber }
  match x.outcome, sc.kind with
  | .accepted, .centre => { written with centre := x.value }
  | .accepted, .jog => { written with jog := x.value }
  | .untaken, _ => written
  | .rejected, _ => written
  | .edge, _ => written
  | .noSignal, _ => written
  | .short, _ => written
  | .noHead, _ => written

/-- The address of a cell's result record (R64, R107). -/
def resultAddress (area : Option Nat) (c : Fin 512) : Nat := area.getD 0 + 32 * c.val

/-- The result record of a close, from the sources of R107. -/
def buildResult (s : State) (cause : CloseCause) (x : Figures) (c : CellRecord) : ResultRecord :=
  { head := s.sc.currentHead
    zone := s.sc.zone
    kind := c.kind
    outcome := c.outcome
    n := match cause with
      | .noHead => 0
      | .quota => s.sc.acc.n
      | .short => s.sc.acc.n
    value := x.value
    spread := x.spread
    extremes := x.extremes
    missed := match cause with
      | .noHead => 0
      | .quota => s.sc.acc.missed
      | .short => s.sc.acc.missed
    slips := match cause with
      | .noHead => 0
      | .quota => s.sc.acc.slips
      | .short => s.sc.acc.slips
    history := (s.fm.record s.sc.currentHead).history
    passNumber := c.passes
    addr := resultAddress s.tp.resultArea (cellIndex s.sc.currentHead s.sc.zone) }

/-! ## Passes (R79 to R82, R91) -/

/-- Entry to AWAIT_HEAD: the revolution count becomes 0 and HEAD REQUEST is raised (R82). -/
def State.enterAwaitHead (s : State) : State :=
  (s.withSc { s.sc with state := .awaitHead, revolutions := 0 }).raise .headRequest
    { place := some (s.sc.currentHead, s.sc.zone), a := 0, b := 0 }

/-- A pass starts (R81). -/
def State.startPass (s : State) : State :=
  (s.withSc { s.sc with passNumber := saturate Config.countLimit s.sc.passNumber 1,
                        currentHead := s.sc.firstHead }).enterAwaitHead

/-- ARMED is entered; with trigger NOW the pass starts at once (R78, R80, R91). -/
def State.arm (s : State) : State :=
  let armed := s.withSc { s.sc with state := .armed }
  match s.sc.trigger with
  | .now => armed.startPass
  | .index => armed
  | .timer => armed

/-- The head after a head in the order of a pass (R79). -/
def nextHead (heads : Nat) (h : Fin 16) : Fin 16 := Fin.ofNat 16 ((h.val + 1) % heads)

/-- SWEEP DONE is raised with a reason and the passes completed (R91, R92). -/
def State.raiseSweepDone (s : State) (r : DoneReason) : State :=
  s.raise .sweepDone { place := none, a := r.code, b := s.sc.passesCompleted }

/-- The Sweep Controller advances after a close (R91). -/
def State.advance (s : State) : State :=
  if s.sc.currentHead = s.sc.lastHead then
    let ended := s.withSc { s.sc with passesCompleted := saturate Config.countLimit s.sc.passesCompleted 1 }
    match s.sc.passes with
    | .onePass => (ended.withSc { ended.sc with state := .idle }).raiseSweepDone .complete
    | .continuous => (ended.withSc { ended.sc with currentHead := ended.sc.firstHead }).arm
  else (s.withSc { s.sc with currentHead := nextHead s.fr.heads s.sc.currentHead }).enterAwaitHead

/-- The sweep state the advance leads to (R91, R94). -/
def advanceState (sc : SweepController) : SweepState :=
  if sc.currentHead = sc.lastHead then
    match sc.passes, sc.trigger with
    | .onePass, _ => .idle
    | .continuous, .now => .awaitHead
    | .continuous, .index => .armed
    | .continuous, .timer => .armed
  else .awaitHead

/-! ## The result record enters the insertion queue (R108) -/

/-- The record of the result holder can enter: an entry is free, and the outcome holder, which comes first, is empty
(R90, R161). -/
def State.resultCanEnter (s : State) : Bool := decide (0 < freeEntries s.tp) && s.dd.holder.isNone

/-- A result record enters the insertion queue: its overrun flag is fixed from the unread flag, RESULT OVERRUN is
raised if that was set, the unread flag is set, and CELL CLOSED is raised (R67, R108, R110). -/
def State.enterResult (s : State) (r : ResultRecord) : State :=
  let c := cellIndex r.head r.zone
  let unread := (s.table.cell c).unread
  let entered := ((s.withTp (enqueue { addr := r.addr, words := resultWords r unread, kind := .result c } s.tp)).withTable
    (s.table.setUnread c true)).withSc { s.sc with holder := none }
  let overrun :=
    if unread then entered.raise .resultOverrun { place := some (r.head, r.zone), a := 0, b := 0 } else entered
  overrun.raise .cellClosed { place := some (r.head, r.zone), a := r.outcome.code, b := 0 }

/-- The record of the result holder enters if it can (R90, R108). -/
def State.tryEnterResult (s : State) : State :=
  match s.sc.holder with
  | some r => if s.resultCanEnter then s.enterResult r else s
  | none => s

/-! ## Closes (R90) -/

/-- A close, in the order of R90: the figures, the cell, the result record into the result holder, the advance. The
record then enters the insertion queue at once if that has room (R90, R108; assumption log 12). -/
def State.closeCell (s : State) (cause : CloseCause) : State :=
  let x := closeFigures s.sc cause
  let c := cellIndex s.sc.currentHead s.sc.zone
  let cell := closedCell s.sc x (s.table.cell c)
  let written := s.withTable (s.table.setCell c cell)
  let held := written.withSc { written.sc with holder := some (buildResult written cause x cell) }
  held.advance.tryEnterResult

/-! ## Frames (R83 to R87) -/

/-- What the Sweep Controller takes when a frame completes (R83). -/
structure CompletedFrame where
  head : Fin 16
  reduction : Reduction
  amplitude : Nat
  follow : FollowState
  missed : Nat
  slip : Bool
  deriving DecidableEq, Repr

/-- The Sweep Controller waits for a head or measures one, and the result holder is empty (R84). -/
def sweepOpen (sc : SweepController) : Bool :=
  (decide (sc.state = .awaitHead) || decide (sc.state = .measuring)) && sc.holder.isNone

/-- A frame qualifies (R84). -/
def qualifies (sc : SweepController) (spindle : SpindleState) (head : Fin 16) (r : Reduction) (follow : FollowState) :
    Bool :=
  sweepOpen sc && decide (head = sc.currentHead) && !r.zoneUnknown && decide (r.zone = sc.zone)
    && decide (r.grade = .good) && decide (follow = .following)
    && (!sc.atSpeed || decide (spindle = .atSpeed))

/-- A qualifying frame enters the accumulator in MEASURING; the cell closes when n reaches the quota (R86). -/
def State.measureFrame (s : State) (f : CompletedFrame) : State :=
  let acc := accumulate s.sc.acc f.reduction.offset (frameWeight f.amplitude s.sc.jogThreshold)
  let measured := s.withSc { s.sc with acc := acc }
  if acc.n = s.sc.quota then measured.closeCell .quota else measured

/-- The Sweep Controller acts on a completed frame (R83, R85 to R87). -/
def State.sweepFrame (s : State) (f : CompletedFrame) : State :=
  let q := qualifies s.sc s.tsm.spindle f.head f.reduction f.follow
  match s.sc.state with
  | .idle => s
  | .armed => s
  | .awaitHead =>
    if q then
      (s.withSc { s.sc with state := .measuring, acc := addMissed Accumulator.clear f.missed f.slip }).measureFrame f
    else s
  | .measuring =>
    let gathered :=
      if f.head = s.sc.currentHead then s.withSc { s.sc with acc := addMissed s.sc.acc f.missed f.slip } else s
    if q then gathered.measureFrame f else gathered

/-- The answer for word 6: the accepted flag, the count n after the frame, and the sweep state after it (R94). -/
def answerSweep (sc : SweepController) (spindle : SpindleState) (head : Fin 16) (r : Reduction) (follow : FollowState) :
    Bool × Nat × SweepState :=
  let current := if sc.state = .measuring then sc.acc.n else 0
  if qualifies sc spindle head r follow then
    (true, current + 1, if current + 1 = sc.quota then advanceState sc else .measuring)
  else (false, current, sc.state)

/-! ## Events of the Timebase and Spindle Monitor (R60, R80, R88, R89, R93) -/

/-- An index event is delivered to the Sweep Controller (R80, R88, R89). -/
def State.sweepIndex (s : State) : State :=
  match s.sc.state with
  | .idle => s
  | .armed => if s.sc.trigger = .index then s.startPass else s
  | .awaitHead =>
    if s.sc.holder.isNone then
      let counted := s.withSc { s.sc with revolutions := saturate 255 s.sc.revolutions 1 }
      if s.sc.deadline ≤ counted.sc.revolutions then counted.closeCell .noHead else counted
    else s
  | .measuring =>
    if s.sc.holder.isNone then
      let counted := s.withSc { s.sc with revolutions := saturate 255 s.sc.revolutions 1 }
      if s.sc.deadline ≤ counted.sc.revolutions then counted.closeCell .short else counted
    else s

/-- A timer expiry is delivered to the Sweep Controller (R58, R80). -/
def State.sweepTimer (s : State) : State :=
  if s.sc.state = .armed ∧ s.sc.trigger = .timer then s.startPass else s

/-- An abort: the open cell is discarded, the Sweep Controller enters IDLE, and SWEEP ABORTED is raised (R93). While
the Sweep Controller is IDLE none is delivered (R49, R53). -/
def State.abortSweep (s : State) (reason : AbortReason) : State :=
  if s.sc.state = .idle then s
  else
    (s.withSc { s.sc with state := .idle }).raise .sweepAborted
      { place := some (s.sc.currentHead, s.sc.zone), a := reason.code, b := s.sc.state.code }

/-- HALT (R92). -/
def State.haltSweep (s : State) : State :=
  if s.sc.state = .idle then s
  else (s.withSc { s.sc with state := .idle }).raiseSweepDone .halted

end Sys2Proof.Machine
end

