-- ==== Sys2Proof/Machine/Timebase.lean ====
section
/-! DEFINITION. Chapter 3: ticks, the timebase restart, the supervision of SREF, index events, the spindle state and
the revolution timer (R44 to R62). -/

namespace Sys2Proof.Machine

/-! ## Restart (R46) -/

/-- A timebase restart (R46). -/
def restartTimebase (t : SpindleMonitor) : SpindleMonitor :=
  { t with prescaleCounter := 0, timerCounter := 0, lastIndex := false, interval := 0, lastPeriod := none,
           spindle := .unknown }

/-- The conditions under which the spindle is judged: EXTERNAL, with P set (R51, R53, R54). -/
def spindleJudged (t : SpindleMonitor) : Bool := decide (t.timebase = .external) && decide (t.nominal ≠ 0)

/-! ## Spindle state and reports (R52, R55) -/

/-- The spindle state is set; a change into OFF_SPEED or STOPPED raises SPINDLE FAULT, a change into AT_SPEED raises
SPINDLE READY, each with the new state or period of R55. -/
def State.setSpindle (s : State) (new : SpindleState) (period : Nat) : State :=
  let s1 := s.withTsm { s.tsm with spindle := new }
  if s.tsm.spindle = new then s1
  else
    match new with
    | .unknown => s1
    | .atSpeed => s1.raise .spindleReady { place := none, a := period, b := 0 }
    | .offSpeed => s1.raise .spindleFault { place := none, a := new.code, b := period }
    | .stopped => s1.raise .spindleFault { place := none, a := new.code, b := period }

/-- A measured period is within the tolerance of the nominal period (R52). -/
def withinTolerance (period nominal tolerance : Nat) : Bool :=
  decide (((period : Int) - nominal).natAbs * 1024 ≤ tolerance * nominal)

/-- The spindle check of an index event, which reads the index interval (R52). -/
def State.spindleCheck (s : State) : State :=
  if s.tsm.lastIndex then
    let period := s.tsm.interval
    (s.withTsm { s.tsm with lastPeriod := some period }).setSpindle
      (if withinTolerance period s.tsm.nominal s.tsm.tolerance then .atSpeed else .offSpeed) period
  else s.setSpindle .unknown 0

/-- The index interval becomes 0; the last index time becomes present when the timebase is EXTERNAL and P is set, and
is absent otherwise (R51). -/
def State.recordIndex (s : State) : State :=
  s.withTsm { s.tsm with interval := 0, lastIndex := spindleJudged s.tsm }

/-! ## Index timeout (R53) -/

/-- The index interval stands at 2 × P while the timebase is EXTERNAL and P is set (R53). -/
def timeoutDue (t : SpindleMonitor) : Bool := spindleJudged t && decide (t.interval = 2 * t.nominal)

/-- An index timeout expiry (R53). -/
def State.timeoutExpiry (s : State) : State :=
  let absent := s.withTsm { s.tsm with lastIndex := false }
  let stopped := absent.setSpindle .stopped (s.tsm.lastPeriod.getD 0)
  if s.tsm.spindle = .stopped then stopped else stopped.abortSweep .spindle

/-- The expiry if it is due. -/
def State.settleTimeout (s : State) : State := if timeoutDue s.tsm then s.timeoutExpiry else s

/-! ## Index event (R51) -/

/-- An index event (R51): delivered to the Sweep Controller, then the spindle check, then the interval back to 0. An index
timeout that is due and that no step has taken is taken after the delivery, so the event ends no expiry (R53, R60;
assumption log 10). -/
def State.indexEdge (s : State) : State :=
  let delivered := s.sweepIndex.settleTimeout
  let checked := if spindleJudged delivered.tsm then delivered.spindleCheck else delivered
  checked.recordIndex

/-! ## Revolution timer (R57, R58) -/

/-- The timer counter stands at its period (R58). -/
def timerDue (t : SpindleMonitor) : Bool := decide (t.timerMode ≠ .off) && decide (t.timerPeriod ≤ t.timerCounter)

/-- A timer expiry (R58). -/
def State.timerExpired (s : State) : State :=
  let delivered := s.sweepTimer
  match delivered.tsm.timerMode with
  | .oneShot => delivered.withTsm { delivered.tsm with timerMode := .off, timerCounter := 0 }
  | .periodic => delivered.withTsm { delivered.tsm with timerCounter := 0 }
  | .off => delivered

/-- The expiry if it is due. -/
def State.settleTimer (s : State) : State := if timerDue s.tsm then s.timerExpired else s

/-- The expiries that are due, the timer before the timeout (assumption log 10). -/
def State.settleExpiries (s : State) : State := s.settleTimer.settleTimeout

/-! ## Ticks (R44, R45, R50, R57) -/

/-- A tick is delivered to the index interval and to the timer (R50, R57). -/
def countTick (t : SpindleMonitor) : SpindleMonitor :=
  { t with interval := saturate Config.maxTicks t.interval 1
           timerCounter := if t.timerMode = .off then 0 else t.timerCounter + 1 }

/-- A tick ends: the prescale counter returns to 0 and the tick is delivered (R45). An expiry that the tick before made
due and that no step has taken is taken first, so none is lost (assumption log 10). -/
def State.endTick (s : State) : State :=
  let settled := s.settleExpiries
  settled.withTsm (countTick { settled.tsm with prescaleCounter := 0 })

/-- One period of the clock in use: the prescale counter advances, and a tick ends when it would reach 2^j (R45). -/
def State.clockPeriod (s : State) : State :=
  if s.tsm.prescaleCounter + 1 < 2 ^ s.tsm.prescale then
    s.withTsm { s.tsm with prescaleCounter := s.tsm.prescaleCounter + 1 }
  else s.endTick

/-! ## SREF (R48, R49) -/

/-- The loss of SREF (R49). -/
def State.loseReference (s : State) : State :=
  ((s.withTsm (restartTimebase { s.tsm with timebase := .fallback, lossCount := 0 })).raise .referenceLost
    ReportDetail.blank).abortSweep .reference

/-- A rising edge of SREF: in EXTERNAL it sets the loss count to 0 and advances the prescale counter; in INTERNAL and
FALLBACK SREF edges are not counted (R45, R48). -/
def State.srefEdge (s : State) : State :=
  match s.tsm.timebase with
  | .external => (s.withTsm { s.tsm with lossCount := 0 }).clockPeriod
  | .internal => s
  | .fallback => s

/-- One period of IOSC: in EXTERNAL it adds 1 to the loss count, and a count of 24 loses SREF; in INTERNAL and FALLBACK
it advances the prescale counter (R45, R48). -/
def State.ioscPeriod (s : State) : State :=
  match s.tsm.timebase with
  | .external =>
    if s.tsm.lossCount + 1 < Config.lossLimit then s.withTsm { s.tsm with lossCount := s.tsm.lossCount + 1 }
    else s.loseReference
  | .internal => s.clockPeriod
  | .fallback => s.clockPeriod

/-! ## The commands -/

/-- TICK: the period of the clock in use comes at which the prescale counter would reach 2^j (R45). In EXTERNAL that
period is ended by a rising SREF edge, which sets the loss count to 0 (R44, R48; assumption log 9). -/
def execTick (s : State) : Host.Outcome State Fault Refusal :=
  .next (whenRunning s fun s => (s.withTsm { s.tsm with lossCount := 0 }).endTick)

/-- INDEX_EVENT: an edge of INDEX; an edge not in the direction of the active edge is ignored (R51). -/
def execIndexEvent (e : Edge) (s : State) : Host.Outcome State Fault Refusal :=
  .next (whenRunning s fun s => if e = s.tsm.edge then s.indexEdge else s)

/-- INDEX_TIMEOUT (R53). -/
def execIndexTimeout (s : State) : Host.Outcome State Fault Refusal := .next (whenRunning s State.settleTimeout)

/-- TIMER_EXPIRY (R58). -/
def execTimerExpiry (s : State) : Host.Outcome State Fault Refusal := .next (whenRunning s State.settleTimer)

/-- SREF_LOSS: the loss count reaches 24; supervision runs in EXTERNAL alone (R48, R49; assumption log 9). The expiries that
are due came before the IOSC periods it stands for, so they are taken first (R53, R58; assumption log 10). -/
def execSrefLoss (s : State) : Host.Outcome State Fault Refusal :=
  .next (whenRunning s fun s =>
    if s.tsm.timebase = .external then s.settleExpiries.loseReference else s)

/-- SREF_RISING_EDGE (R45, R48). -/
def execSrefRisingEdge (s : State) : Host.Outcome State Fault Refusal := .next (whenRunning s State.srefEdge)

/-- What a step does when no command waits: the expiries that are due are taken, and one period of IOSC goes by (R45, R48,
R53, R58; assumption logs 8 and 10). -/
def idlePeriod (s : State) : State := whenRunning s fun s => s.settleExpiries.ioscPeriod

end Sys2Proof.Machine
end

