-- ==== Sys2Proof/Machine/Image.lean ====
section
/-! DEFINITION. Chapter 7: contributions (R114), baselines and writes (R120, R127, R128), the encoding of a figure
(R122), publishing (R123, R124), and the substitution of returned data (R125, R126). -/

namespace Sys2Proof.Machine

/-! ## Contributions (R114) -/

/-- The contribution of a value held in a mapped field (R114). -/
def contribution (e : PatchEntry) (x : Nat) : Nat := if e.width = 8 ∧ e.offset % 2 = 1 then 256 * x else x

/-- An amount added to the adjustment less another, modulo 65536 (R114). -/
def adjust (delta : Nat) (plus minus : Nat) : Nat :=
  (((delta : Int) + plus - minus) % 65536).toNat

/-! ## Writes into the window (R120, R127, R128) -/

/-- The byte of a word at an offset from its lowest byte, little-endian (R168). -/
def wordByte (w : Word) (i : Nat) : Nat := (w.extractLsb' (8 * i) 8).toNat

/-- The bytes of an entry's field lie in the word at a byte offset: which of the word's bytes, from the lowest. -/
def fieldLanes (e : PatchEntry) (offset : Nat) : List Nat :=
  (List.range 4).filter fun i => decide (e.offset ≤ offset + i) && decide (offset + i < e.offset + e.width / 8)

/-- The value a full write gives a field whose lowest byte is byte `i` of the word (R120). -/
def writtenValue (e : PatchEntry) (data : Word) (i : Nat) : Nat :=
  if e.width = 8 then wordByte data i else wordByte data i + 256 * wordByte data (i + 1)

/-- What a write does to one entry, and to the adjustment (R120, R127, R128). -/
def writeEntry (offset : Nat) (data : Word) (enables : BitVec 4) (delta : Nat) (e : PatchEntry) : PatchEntry × Nat :=
  let lanes := fieldLanes e offset
  if lanes.all (fun i => !enables.getLsbD i) then (e, delta)
  else if lanes.all (fun i => enables.getLsbD i) then
    let v := writtenValue e data (e.offset - offset)
    ({ e with baseline := some v },
      match e.state with
      | .live _ => adjust delta (contribution e v) (contribution e (e.baseline.getD 0))
      | .dormant => delta)
  else
    match e.state with
    | .live frozen =>
      ({ e with baseline := none, state := .dormant },
        adjust delta (contribution e frozen) (contribution e (e.baseline.getD 0)))
    | .dormant => ({ e with baseline := none }, delta)

/-- What a write does to the entries of the map, one after another, and to the adjustment. -/
def writeEntries (offset : Nat) (data : Word) (enables : BitVec 4) : List PatchEntry → Nat → List PatchEntry × Nat
  | [], delta => ([], delta)
  | e :: rest, delta =>
    let one := writeEntry offset data enables delta e
    let more := writeEntries offset data enables rest one.2
    (one.1 :: more.1, more.2)

/-- The Image Patcher takes a word written at a byte offset of the window (R116, R120). -/
def ImagePatcher.write (ip : ImagePatcher) (offset : Nat) (data : Word) (enables : BitVec 4) : ImagePatcher :=
  let r := writeEntries offset data enables ip.map ip.adjustment
  { ip with map := r.1, adjustment := r.2 }

/-! ## Encoding a figure (R122) -/

/-- The committed value in field units (R122). -/
def scaleFigure (v : Int) (k : Nat) : Int := if 10 ≤ k then v * 2 ^ (k - 10) else roundDiv v (2 ^ (10 - k))

/-- The range of a width and an encoding (R122). -/
def fieldRange (width : Nat) (enc : Encoding) : Int × Int :=
  match enc with
  | .signMag => if width = 8 then (-127, 127) else (-32767, 32767)
  | .twos => if width = 8 then (-128, 127) else (-32768, 32767)
  | .offset => if width = 8 then (-128, 127) else (-32768, 32767)

/-- A field value limited to its range (R122). -/
def limitFigure (width : Nat) (enc : Encoding) (e : Int) : Int :=
  max (fieldRange width enc).1 (min (fieldRange width enc).2 e)

/-- The raw content of a limited field value (R122). -/
def rawContent (width : Nat) (enc : Encoding) (e : Int) : Nat :=
  match enc with
  | .twos => (e % (2 ^ width : Int)).toNat
  | .offset => (e + 2 ^ (width - 1)).toNat
  | .signMag => if e < 0 then 2 ^ (width - 1) + e.natAbs else e.natAbs

/-- The encoding of a committed value for an entry, and whether it saturates (R122). -/
def encodeFigure (e : PatchEntry) (v : Int) : Nat × Bool :=
  let scaled := scaleFigure v e.scale
  let limited := limitFigure e.width e.encoding scaled
  (rawContent e.width e.encoding limited, decide (limited ≠ scaled))

/-! ## Publishing (R74, R123, R129) -/

/-- The committed value of an entry's source cell and quantity (R74). -/
def sourceValue (t : AlignmentTable) (e : PatchEntry) : Option Int :=
  let c := t.cell (cellIndex e.head e.zone)
  match e.quantity with
  | .centre => c.centre
  | .jog => c.jog

/-- What PUBLISH does to one entry: LIVE with the encoded figure frozen when it has a baseline and its source holds a
value, DORMANT otherwise; with whether the encoding saturated (R123). -/
def publishEntry (t : AlignmentTable) (e : PatchEntry) : PatchEntry × Bool :=
  match e.baseline, sourceValue t e with
  | some _, some v => ({ e with state := .live (encodeFigure e v).1 }, (encodeFigure e v).2)
  | some _, none => ({ e with state := .dormant }, false)
  | none, _ => ({ e with state := .dormant }, false)

/-- An entry is LIVE. -/
def PatchEntry.isLive (e : PatchEntry) : Bool :=
  match e.state with
  | .live _ => true
  | .dormant => false

/-- The term of an entry in the adjustment: baseline contribution minus frozen contribution when LIVE (R124). -/
def entryTerm (e : PatchEntry) : Int :=
  match e.state with
  | .live frozen => (contribution e (e.baseline.getD 0) : Int) - contribution e frozen
  | .dormant => 0

/-- The sum of the terms of the entries (R124). -/
def termSum : List PatchEntry → Int
  | [] => 0
  | e :: rest => entryTerm e + termSum rest

/-- The adjustment that a map asks for, modulo 65536 (R124). -/
def mapAdjustment (m : List PatchEntry) : Nat := (termSum m % 65536).toNat

/-- PUBLISH over the whole map, with the adjustment set to the sum of the terms (R123, R124). -/
def ImagePatcher.publish (ip : ImagePatcher) (t : AlignmentTable) : ImagePatcher :=
  let m := ip.map.map fun e => (publishEntry t e).1
  { ip with state := .published, map := m, adjustment := mapAdjustment m }

/-- The number of LIVE entries a PUBLISH makes (R123). -/
def liveCount (t : AlignmentTable) (m : List PatchEntry) : Nat := m.countP fun e => (publishEntry t e).1.isLive

/-- The number of entries made LIVE whose encoding saturated (R123). -/
def saturatedCount (t : AlignmentTable) (m : List PatchEntry) : Nat := m.countP fun e => (publishEntry t e).2

/-- RELEASE: every entry DORMANT, the adjustment 0, LOADING; baselines kept (R129). -/
def ImagePatcher.release (ip : ImagePatcher) : ImagePatcher :=
  { ip with state := .loading, adjustment := 0, map := ip.map.map fun e => { e with state := .dormant } }

/-! ## The patch map (R117, R118) -/

/-- Two fields, each an offset and a width, occupy a common byte (R117). -/
def fieldsOverlap (o1 w1 o2 w2 : Nat) : Bool := rangesOverlap o1 (w1 / 8) o2 (w2 / 8)

/-- An entry placed at the position its offset gives (R118). -/
def insertEntry (e : PatchEntry) : List PatchEntry → List PatchEntry
  | [] => [e]
  | x :: rest => if e.offset < x.offset then e :: x :: rest else x :: insertEntry e rest

/-! ## Substitution (R125, R126, R130) -/

/-- The byte a LIVE entry serves at an offset of the window, if it holds that byte (R125). -/
def servedByte (offset : Nat) (e : PatchEntry) : Option Nat :=
  match e.state with
  | .live frozen =>
    if e.offset ≤ offset ∧ offset < e.offset + e.width / 8 then some (frozen / 256 ^ (offset - e.offset) % 256)
    else none
  | .dormant => none

/-- The byte of a beat in lane `i`. -/
def beatByte (d : BitVec 64) (i : Nat) : Nat := (d.extractLsb' (8 * i) 8).toNat

/-- The byte returned for lane `i` of a beat at an address, while PUBLISHED: the adjusted checksum (R126), a LIVE
field's frozen value (R125), or memory's byte. -/
def substituteByte (ip : ImagePatcher) (w : ImageWindow) (a : Nat) (d : BitVec 64) (i : Nat) : Nat :=
  if w.base ≤ a + i ∧ a + i < w.base + w.length then
    let o := a + i - w.base
    if o = w.checksum then (beatByte d i + 256 * beatByte d (i + 1) + ip.adjustment) % 65536 % 256
    else if o = w.checksum + 1 then
      (beatByte d (i - 1) + 256 * beatByte d i + ip.adjustment) % 65536 / 256
    else ((ip.map.findSome? (servedByte o)).getD (beatByte d i))
  else beatByte d i

/-- Eight bytes packed into a beat, lane 0 lowest. -/
def packBytes : List Nat → Nat
  | [] => 0
  | b :: rest => b + 256 * packBytes rest

/-- A returned beat after the Image Patcher (R116, R125, R126): unaltered unless the image is PUBLISHED. -/
def substituteBeat (ip : ImagePatcher) (a : Nat) (d : BitVec 64) : BitVec 64 :=
  match ip.state, ip.window with
  | .published, some w => BitVec.ofNat 64 (packBytes ((List.range 8).map (substituteByte ip w a d)))
  | .published, none => d
  | .unset, _ => d
  | .loading, _ => d

/-- The beats of a read's returned data, each with the lanes the requester asked for (R116). -/
def returnBeats (f : Nat → BitVec 64 → BitVec 64) (a : Nat) : List (BitVec 8) → List (BitVec 64) → List Beat
  | l :: ls, d :: ds => { data := f a d, lanes := l } :: returnBeats f (a + 8) ls ds
  | [], _ => []
  | _ :: _, [] => []

end Sys2Proof.Machine
end

