-- ==== Sys2Proof/Machine/Operands.lean ====
section
/-! DEFINITION. The directive record (section 11.2): the words a directive is written in, and the operands the Directive
Decoder reads from the latched words (R148, R155, R168). -/

namespace Sys2Proof.Machine

/-- The kind code of a directive (R155). -/
def kindCode : Directive → BitVec 8
  | .setWindows _ => 0x01
  | .setGeometry _ => 0x02
  | .setZones _ => 0x03
  | .setHead _ => 0x04
  | .setFollow _ => 0x05
  | .setTimebase _ => 0x06
  | .setIndex _ => 0x07
  | .setTimer _ => 0x08
  | .setReports _ => 0x09
  | .sweep _ => 0x10
  | .halt => 0x11
  | .clearHead _ => 0x12
  | .clearHistory _ => 0x13
  | .setImage _ => 0x20
  | .mapField _ => 0x21
  | .clearMap => 0x22
  | .publish => 0x23
  | .release => 0x24

/-- Word 0 of a directive: the kind code below the operands of bits 31:8 (section 11.2). -/
def wordZero (upper : BitVec 24) (code : BitVec 8) : Word := BitVec.ofNat 32 (code.toNat + 256 * upper.toNat)

/-- Two 16-bit operands of a word, the upper first. -/
def halves (upper lower : BitVec 16) : Word := BitVec.ofNat 32 (lower.toNat + 65536 * upper.toNat)

/-- Four 8-bit operands of a word, the uppermost first. -/
def quarters (b3 b2 b1 b0 : BitVec 8) : Word :=
  BitVec.ofNat 32 (b0.toNat + 256 * b1.toNat + 65536 * b2.toNat + 16777216 * b3.toNat)

/-- A 2-bit operand at bits 9:8 of word 0 (section 11.2). -/
def lowPair (x : BitVec 2) : BitVec 24 := BitVec.ofNat 24 x.toNat

/-- The operands of SWEEP in word 0: quantity kind bits 9:8, repeat bits 11:10, trigger bits 13:12, require at speed
bit 16 (section 11.2). -/
def sweepFlags (o : SweepOperands) : BitVec 24 :=
  BitVec.ofNat 24 (o.kind.toNat + 4 * o.passes.toNat + 16 * o.trigger.toNat + 256 * o.atSpeed.toNat)

/-- The two words of a beat, the upper first (section 0.7). -/
def beatOf (upper lower : Word) : BitVec 64 := BitVec.ofNat 64 (lower.toNat + 4294967296 * upper.toNat)

/-- Words 0 to 6 of the mailbox for a directive, every bit section 11.2 does not assign 0 (section 11.2). -/
def directiveWords (d : Directive) : Vector Word 7 :=
  let c := kindCode d
  let plain := wordZero 0 c
  match d with
  | .setWindows o => #v[plain, o.captureBase, o.slotCount, o.resultBase, 0, 0, 0]
  | .setGeometry o => #v[plain, quarters 0 0 o.zones o.heads, halves o.gapLimit o.wpr, 0, 0, 0, 0]
  | .setZones o =>
    #v[quarters 0 o.count o.first c, o.tracks[0], o.tracks[1], o.tracks[2], o.tracks[3], o.tracks[4], o.tracks[5]]
  | .setHead o => #v[quarters 0 0 o.head c, halves o.window o.floor, o.signal, 0, 0, 0, 0]
  | .setFollow o => #v[plain, halves o.inhibit o.settle, halves 0 o.limit, 0, 0, 0, 0]
  | .setTimebase o => #v[wordZero (lowPair o.source) c, quarters 0 0 0 o.prescale, 0, 0, 0, 0, 0]
  | .setIndex o => #v[wordZero (lowPair o.edge) c, o.nominal, halves 0 o.tolerance, 0, 0, 0, 0]
  | .setTimer o => #v[wordZero (lowPair o.mode) c, o.period, 0, 0, 0, 0, 0]
  | .setReports m => #v[plain, m, 0, 0, 0, 0, 0]
  | .sweep o =>
    #v[wordZero (sweepFlags o) c,
       quarters 0 o.zone o.lastHead o.firstHead, halves o.deadline o.quota, halves o.spreadLimit o.limit,
       halves 0 o.jogThreshold, 0, 0]
  | .halt => #v[plain, 0, 0, 0, 0, 0, 0]
  | .clearHead h => #v[quarters 0 0 h c, 0, 0, 0, 0, 0, 0]
  | .clearHistory h => #v[quarters 0 0 h c, 0, 0, 0, 0, 0, 0]
  | .setImage o => #v[plain, o.base, o.length, o.checksum, 0, 0, 0]
  | .mapField o =>
    #v[plain, o.offset, quarters o.quantity o.scale o.encoding o.width, quarters 0 0 o.zone o.head, 0, 0, 0]
  | .clearMap => #v[plain, 0, 0, 0, 0, 0, 0]
  | .publish => #v[plain, 0, 0, 0, 0, 0, 0]
  | .release => #v[plain, 0, 0, 0, 0, 0, 0]

/-- The directive in the latched words, with its operands; `none` when the kind code is not in the catalogue
(R148, R155). -/
def readDirective (w : Vector Word 7) : Option Directive :=
  match (bits w[0] 0 8).toNat with
  | 0x01 => some (.setWindows { captureBase := w[1], slotCount := w[2], resultBase := w[3] })
  | 0x02 => some (.setGeometry { heads := bits w[1] 0 8, zones := bits w[1] 8 8, wpr := bits w[2] 0 16,
                                 gapLimit := bits w[2] 16 16 })
  | 0x03 => some (.setZones { first := bits w[0] 8 8, count := bits w[0] 16 8,
                              tracks := #v[w[1], w[2], w[3], w[4], w[5], w[6]] })
  | 0x04 => some (.setHead { head := bits w[0] 8 8, floor := bits w[1] 0 16, signal := w[2],
                             window := bits w[1] 16 16 })
  | 0x05 => some (.setFollow { settle := bits w[1] 0 16, inhibit := bits w[1] 16 16, limit := bits w[2] 0 16 })
  | 0x06 => some (.setTimebase { source := bits w[0] 8 2, prescale := bits w[1] 0 8 })
  | 0x07 => some (.setIndex { edge := bits w[0] 8 2, nominal := w[1], tolerance := bits w[2] 0 16 })
  | 0x08 => some (.setTimer { mode := bits w[0] 8 2, period := w[1] })
  | 0x09 => some (.setReports w[1])
  | 0x10 => some (.sweep { kind := bits w[0] 8 2, firstHead := bits w[1] 0 8, lastHead := bits w[1] 8 8,
                           zone := bits w[1] 16 8, quota := bits w[2] 0 16, deadline := bits w[2] 16 16,
                           passes := bits w[0] 10 2, trigger := bits w[0] 12 2, atSpeed := bits w[0] 16 1 == 1#1,
                           limit := bits w[3] 0 16, spreadLimit := bits w[3] 16 16,
                           jogThreshold := bits w[4] 0 16 })
  | 0x11 => some .halt
  | 0x12 => some (.clearHead (bits w[0] 8 8))
  | 0x13 => some (.clearHistory (bits w[0] 8 8))
  | 0x20 => some (.setImage { base := w[1], length := w[2], checksum := w[3] })
  | 0x21 => some (.mapField { offset := w[1], width := bits w[2] 0 8, encoding := bits w[2] 8 8,
                              scale := bits w[2] 16 8, head := bits w[3] 0 8, zone := bits w[3] 8 8,
                              quantity := bits w[2] 24 8 })
  | 0x22 => some .clearMap
  | 0x23 => some .publish
  | 0x24 => some .release
  | _ => none

/-- A whole directive as one 4-beat burst at the mailbox, every byte enable set, its go word 0 (section 9.8). -/
def directiveBurst (base : Nat) (d : Directive) : WriteBurst :=
  let w := directiveWords d
  { addr := BitVec.ofNat 32 base
    beats := [{ data := beatOf w[1] w[0], lanes := 0xFF }, { data := beatOf w[3] w[2], lanes := 0xFF },
              { data := beatOf w[5] w[4], lanes := 0xFF }, { data := beatOf 0 w[6], lanes := 0xFF }] }

/-- The go word alone, full, as one beat at the mailbox: word 7 in the upper half, word 6 not written (R147). -/
def goBurst (base : Nat) (go : Word) : WriteBurst :=
  { addr := BitVec.ofNat 32 (base + 24), beats := [{ data := beatOf go 0, lanes := 0xF0 }] }

/-! ## Enumerated operands (section 11.6): `none` for a code not listed -/

/-- Section 11.6. -/
def timebaseSource (x : BitVec 2) : Option TimebaseState :=
  match x.toNat with
  | 0 => some .internal
  | 1 => some .external
  | _ => none

/-- Section 11.6. -/
def indexEdgeOperand (x : BitVec 2) : Option Edge :=
  match x.toNat with
  | 0 => some .falling
  | 1 => some .rising
  | _ => none

/-- Section 11.6. -/
def timerModeOperand (x : BitVec 2) : Option TimerMode :=
  match x.toNat with
  | 0 => some .off
  | 1 => some .oneShot
  | 2 => some .periodic
  | _ => none

/-- Section 11.6. -/
def quantityOperand (x : Nat) : Option Quantity :=
  match x with
  | 0 => some .centre
  | 1 => some .jog
  | _ => none

/-- Section 11.6. -/
def passesOperand (x : BitVec 2) : Option Passes :=
  match x.toNat with
  | 0 => some .onePass
  | 1 => some .continuous
  | _ => none

/-- Section 11.6. -/
def triggerOperand (x : BitVec 2) : Option Trigger :=
  match x.toNat with
  | 0 => some .now
  | 1 => some .index
  | 2 => some .timer
  | _ => none

/-- Section 11.6. -/
def encodingOperand (x : BitVec 8) : Option Encoding :=
  match x.toNat with
  | 0 => some .twos
  | 1 => some .offset
  | 2 => some .signMag
  | _ => none

/-- A head operand: ALL, a head number below H, or neither (R39, R41, R42; 0xFF is ALL, R168). -/
inductive HeadChoice where
  | all
  | one (h : Fin 16)
  | bad
  deriving DecidableEq, Repr

/-- The head operand judged against H. -/
def headChoice (heads : Nat) (x : BitVec 8) : HeadChoice :=
  if x = 0xFF then .all else if x.toNat < heads then .one (Fin.ofNat 16 x.toNat) else .bad

end Sys2Proof.Machine
end

