-- ==== Sys2Proof/Machine/Directives.lean ====
section
/-! DEFINITION. Chapter 9: taking a directive (R148 to R151), and what each of the eighteen owners does with one (R22,
R23, R39 to R43, R47, R56, R59, R72, R77, R78, R92, R115, R118, R119, R123, R129, R137, R159, R160). -/

namespace Sys2Proof.Machine

/-- What an owner answers: the outcome code and the detail of the outcome record (R148, R149). -/
structure Verdict where
  code : OutcomeCode
  detail : Nat
  deriving DecidableEq, Repr

/-- A refusal with a detail of 0 (R149). -/
def refuse (c : OutcomeCode) : Verdict := { code := c, detail := 0 }

/-- TAKEN (R149). -/
def taken : Verdict := { code := .taken, detail := 0 }

/-- BAD_VALUE naming an operand (R150). -/
def badValue (n : Nat) : Verdict := { code := .badValue, detail := n }

/-- OVERLAP naming an operand (R150). -/
def overlap (n : Nat) : Verdict := { code := .overlap, detail := n }

/-- TAKEN_CLAMPED with the mask when a mark is set, TAKEN otherwise (R150). -/
def takenMask (mask : Nat) : Verdict := if mask = 0 then taken else { code := .takenClamped, detail := mask }

/-- The Sweep Controller is not IDLE: the directives of R97's left column are refused BUSY. -/
def sweepRunning (s : State) : Bool := decide (s.sc.state ≠ .idle)

/-! ## SET WINDOWS (R159, R160) -/

/-- A range shares a byte with the control region (R115, R159). -/
def overlapsControl (s : State) (a la : Nat) : Bool :=
  match s.tp.controlBase with
  | some b => rangesOverlap a la b Config.controlBytes
  | none => false

/-- A range shares a byte with the image window, which is present unless the image is UNSET (R113, R159). -/
def overlapsImage (s : State) (a la : Nat) : Bool :=
  match s.ip.state, s.ip.window with
  | .unset, _ => false
  | .loading, some w => rangesOverlap a la w.base w.length
  | .published, some w => rangesOverlap a la w.base w.length
  | .loading, none => false
  | .published, none => false

/-- R159. -/
def judgeWindows (o : WindowOperands) (s : State) : Verdict :=
  let slots := clamp 16 65536 o.slotCount.toNat
  let cb := o.captureBase.toNat
  let rb := o.resultBase.toNat
  if sweepRunning s || s.sc.holder.isSome then refuse .busy
  else
    match lowestFailing [(decide (cb % 32 ≠ 0), 1), (decide (Config.addressSpace < cb + 32 * slots), 1),
        (decide (rb % Config.resultBytes ≠ 0), 3)] with
    | some n => badValue n
    | none =>
      match lowestFailing [(rangesOverlap cb (32 * slots) rb Config.resultBytes, 1),
          (overlapsControl s cb (32 * slots), 1), (overlapsImage s cb (32 * slots), 1),
          (overlapsControl s rb Config.resultBytes, 3), (overlapsImage s rb Config.resultBytes, 3)] with
      | some n => overlap n
      | none => takenMask (clampMark 2 o.slotCount.toNat slots)

/-- The table with every unread flag clear (R71). -/
def clearUnread (t : AlignmentTable) : AlignmentTable :=
  { t with cells := mapBank (fun c => { c with unread := false }) t.cells }

/-- R160. -/
def applyWindows (o : WindowOperands) (s : State) : State :=
  let moved := decide (s.tp.resultArea ≠ some o.resultBase.toNat)
  let placed := (s.withTp { s.tp with
    captureRing := some { base := o.captureBase.toNat, slots := clamp 16 65536 o.slotCount.toNat }
    resultArea := some o.resultBase.toNat }).abandonFrame
  if moved then placed.withTable (clearUnread placed.table) else placed

/-! ## SET GEOMETRY (R22, R43) -/

/-- The zone list changed to a new zone count: cut, or extended by one track a zone (R22). -/
def resizeZones (zones : List Nat) (z : Nat) : List Nat :=
  if z ≤ zones.length then zones.take z
  else zones ++ (List.range (z - zones.length)).map fun i => zones.getLastD 0 + 1 + i

/-- R22. -/
def judgeGeometry (o : GeometryOperands) (s : State) : Verdict :=
  if sweepRunning s then refuse .busy
  else
    match lowestFailing [(decide (o.heads.toNat < 1) || decide (16 < o.heads.toNat), 1),
        (decide (o.zones.toNat < 1) || decide (32 < o.zones.toNat), 2)] with
    | some n => badValue n
    | none =>
      if s.fr.zoneCount < o.zones.toNat
          ∧ Config.maxTrack < s.fr.zones.getLastD 0 + (o.zones.toNat - s.fr.zoneCount) then badValue 2
      else takenMask (clampMark 3 o.wpr.toNat (clamp 64 1023 o.wpr.toNat)
        + clampMark 4 o.gapLimit.toNat (clamp 1 63 o.gapLimit.toNat))

/-- What SET GEOMETRY does to a follow record (R43). -/
def unseeRecord (r : FollowRecord) : FollowRecord :=
  { r with state := .unseen, run := 0, acquire := 0, noLockRaised := false }

/-- R22, R43. -/
def applyGeometry (o : GeometryOperands) (s : State) : State :=
  ((s.withFr { s.fr with
      heads := o.heads.toNat
      zoneCount := o.zones.toNat
      wpr := clamp 64 1023 o.wpr.toNat
      gapLimit := clamp 1 63 o.gapLimit.toNat
      zones := resizeZones s.fr.zones o.zones.toNat }).abandonFrame).withFm
    { s.fm with records := mapBank unseeRecord s.fm.records, active := none, last := LastFrame.absent }

/-! ## SET ZONES (R23) -/

/-- The first tracks the directive gives: as many as its count names, of the six it has (R23, R168; log 19). -/
def givenTracks (o : ZoneOperands) : List Nat := (o.tracks.toList.map BitVec.toNat).take o.count.toNat

/-- The zone list with the given first tracks in place (R23). -/
def replaceZones (zones : List Nat) (first : Nat) (given : List Nat) : List Nat :=
  (zones.take first ++ given ++ zones.drop (first + given.length)).take zones.length

/-- A list of first tracks is strictly ascending (R1, R23). -/
def ascending : List Nat → Bool
  | [] => true
  | a :: rest =>
    match rest with
    | [] => true
    | b :: _ => decide (a < b) && ascending rest

/-- The condition that a given first track is too great, for each of them, with its operand number (R23, R150). -/
def trackFaults : List Nat → Nat → List (Bool × Nat)
  | [], _ => []
  | t :: rest, n => (decide (Config.maxTrack < t), n) :: trackFaults rest (n + 1)

/-- R23. -/
def judgeZones (o : ZoneOperands) (s : State) : Verdict :=
  let z0 := o.first.toNat
  let c := o.count.toNat
  if sweepRunning s then refuse .busy
  else
    match lowestFailing ([(decide (c < 1) || decide (6 < c), 2), (decide (s.fr.zoneCount < z0 + c), 1)]
        ++ trackFaults (givenTracks o) 3
        ++ [(decide (z0 = 0) && decide ((givenTracks o).headD 0 ≠ 0), 1),
            (!ascending (replaceZones s.fr.zones z0 (givenTracks o)), 1)]) with
    | some n => badValue n
    | none => taken

/-- R23. -/
def applyZones (o : ZoneOperands) (s : State) : State :=
  (s.withFr { s.fr with zones := replaceZones s.fr.zones o.first.toNat (givenTracks o) }).abandonFrame

/-! ## SET HEAD, SET FOLLOW, CLEAR HISTORY, CLEAR HEAD (R39 to R42, R72) -/

/-- The follow records with those a head operand names changed. -/
def changeRecords (fm : FollowMonitor) (c : HeadChoice) (f : FollowRecord → FollowRecord) : FollowMonitor :=
  match c with
  | .all => { fm with records := mapBank f fm.records }
  | .one h => fm.setRecord h (f (fm.record h))
  | .bad => fm

/-- R39. -/
def judgeHead (o : HeadOperands) (s : State) : Verdict :=
  if sweepRunning s then refuse .busy
  else if headChoice s.fr.heads o.head = .bad then badValue 1
  else takenMask (clampMark 2 o.floor.toNat (clamp 0 4095 o.floor.toNat)
    + clampMark 3 o.signal.toNat (clamp 0 65535 o.signal.toNat)
    + clampMark 4 o.window.toNat (clamp 1 511 o.window.toNat))

/-- R39. -/
def applyHead (o : HeadOperands) (s : State) : State :=
  s.withFm (changeRecords s.fm (headChoice s.fr.heads o.head) fun r =>
    { r with floor := clamp 0 4095 o.floor.toNat, signal := clamp 0 65535 o.signal.toNat,
             window := clamp 1 511 o.window.toNat })

/-- R40. -/
def judgeFollow (o : FollowOperands) (s : State) : Verdict :=
  if sweepRunning s then refuse .busy
  else takenMask (clampMark 1 o.settle.toNat (clamp 1 255 o.settle.toNat)
    + clampMark 2 o.inhibit.toNat (clamp 1 255 o.inhibit.toNat)
    + clampMark 3 o.limit.toNat (clamp 16 4095 o.limit.toNat))

/-- R40. -/
def applyFollow (o : FollowOperands) (s : State) : State :=
  s.withFm { s.fm with settle := clamp 1 255 o.settle.toNat, inhibit := clamp 1 255 o.inhibit.toNat,
                       acquireLimit := clamp 16 4095 o.limit.toNat }

/-- R41. -/
def judgeClearHistory (head : BitVec 8) (s : State) : Verdict :=
  if headChoice s.fr.heads head = .bad then badValue 1 else taken

/-- R41. -/
def applyClearHistory (head : BitVec 8) (s : State) : State :=
  s.withFm (changeRecords s.fm (headChoice s.fr.heads head) fun r => { r with history := History.empty })

/-- R42. -/
def judgeClearHead (head : BitVec 8) (s : State) : Verdict :=
  if sweepRunning s then refuse .busy
  else if headChoice s.fr.heads head = .bad then badValue 1
  else taken

/-- A head operand names a head. -/
def choiceNames (c : HeadChoice) (h : Fin 16) : Bool :=
  match c with
  | .all => true
  | .one x => decide (x = h)
  | .bad => false

/-- The cells from index `i` on, those of the heads a head operand names emptied (R72). -/
def emptyCells (c : HeadChoice) : List CellRecord → Nat → List CellRecord
  | [], _ => []
  | x :: rest, i =>
    (if choiceNames c (Fin.ofNat 16 (i / 32)) then CellRecord.reset else x) :: emptyCells c rest (i + 1)

/-- Emptying keeps the number of cells. -/
theorem emptyCells_length (c : HeadChoice) (l : List CellRecord) (i : Nat) : (emptyCells c l i).length = l.length := by
  induction l generalizing i with
  | nil => rfl
  | cons x rest ih => simp [emptyCells, ih]

/-- The table with every cell of the named heads emptied (R72). -/
def emptyHeads (t : AlignmentTable) (c : HeadChoice) : AlignmentTable :=
  { cells := ⟨⟨emptyCells c t.cells.toList 0⟩, by simp [emptyCells_length]⟩ }

/-- What CLEAR HEAD does to a follow record; F, S and W are kept (R42). -/
def clearRecord (r : FollowRecord) : FollowRecord := { unseeRecord r with history := History.empty }

/-- The active head is one that a head operand names (R42). -/
def activeNamed (fm : FollowMonitor) (c : HeadChoice) : Bool :=
  match fm.active with
  | some a => choiceNames c a
  | none => false

/-- R42, R72. -/
def applyClearHead (head : BitVec 8) (s : State) : State :=
  let c := headChoice s.fr.heads head
  let cleared := changeRecords s.fm c clearRecord
  let fm := if activeNamed s.fm c then { cleared with active := none, last := LastFrame.absent } else cleared
  (s.withFm fm).withTable (emptyHeads s.table c)

/-! ## SET TIMEBASE, SET INDEX, SET TIMER (R47, R56, R59) -/

/-- R47. -/
def judgeTimebase (o : TimebaseOperands) (s : State) : Verdict :=
  if sweepRunning s then refuse .busy
  else
    match timebaseSource o.source with
    | none => badValue 1
    | some _ => takenMask (clampMark 2 o.prescale.toNat (clamp 0 10 o.prescale.toNat))

/-- R47. -/
def applyTimebase (o : TimebaseOperands) (s : State) : State :=
  (s.withTsm (restartTimebase { s.tsm with
      timebase := (timebaseSource o.source).getD s.tsm.timebase
      prescale := clamp 0 10 o.prescale.toNat
      lossCount := 0 })).clearReports [.spindleFault, .spindleReady]

/-- The nominal period as clamped: 0 is not clamped (R56). -/
def clampNominal (p : Nat) : Nat := if p = 0 then 0 else clamp 256 8388607 p

/-- R56. -/
def judgeIndex (o : IndexOperands) (s : State) : Verdict :=
  if sweepRunning s then refuse .busy
  else
    match indexEdgeOperand o.edge with
    | none => badValue 1
    | some _ => takenMask (clampMark 2 o.nominal.toNat (clampNominal o.nominal.toNat)
        + clampMark 3 o.tolerance.toNat (clamp 1 255 o.tolerance.toNat))

/-- R56. -/
def applyIndex (o : IndexOperands) (s : State) : State :=
  (s.withTsm { s.tsm with
      edge := (indexEdgeOperand o.edge).getD s.tsm.edge
      nominal := clampNominal o.nominal.toNat
      tolerance := clamp 1 255 o.tolerance.toNat
      lastIndex := false
      lastPeriod := none
      interval := 0
      spindle := .unknown }).clearReports [.spindleFault, .spindleReady]

/-- R59. -/
def judgeTimer (o : TimerOperands) (_s : State) : Verdict :=
  match timerModeOperand o.mode with
  | none => badValue 1
  | some _ => takenMask (clampMark 2 o.period.toNat (clamp 1 Config.maxTicks o.period.toNat))

/-- R59. -/
def applyTimer (o : TimerOperands) (s : State) : State :=
  s.withTsm { s.tsm with
    timerMode := (timerModeOperand o.mode).getD s.tsm.timerMode
    timerPeriod := clamp 1 Config.maxTicks o.period.toNat
    timerCounter := 0 }

/-! ## SET REPORTS (R137) -/

/-- The mask enables a kind outside the eleven: bit 0, or a bit from 12 to 31 (R137, section 11.2). -/
def maskOutside (m : Word) : Bool := decide (m.toNat % 2 ≠ 0) || decide (4096 ≤ m.toNat)

/-- R137. -/
def judgeReports (m : Word) (_s : State) : Verdict := if maskOutside m then badValue 1 else taken

/-- The report mask with the enable of each kind from the bit of its code (section 11.2). -/
def readMask (m : Word) : Vector Bool 11 :=
  ⟨⟨(List.range 11).map fun i => m.getLsbD (i + 1)⟩, by simp⟩

/-- The kinds a mask disables. -/
def disabledKinds (m : Word) : List ReportKind := ReportKind.order.filter fun k => !m.getLsbD k.code

/-- R137. -/
def applyReports (m : Word) (s : State) : State :=
  (s.withRa { s.ra with mask := readMask m }).clearReports (disabledKinds m)

/-! ## SWEEP (R77, R78) -/

/-- R77. -/
def judgeSweep (o : SweepOperands) (s : State) : Verdict :=
  if sweepRunning s then refuse .busy
  else if s.tp.captureRing.isNone || s.tp.resultArea.isNone then refuse .state
  else
    match lowestFailing [((quantityOperand o.kind.toNat).isNone, 1),
        (decide (s.fr.heads ≤ o.firstHead.toNat), 2), (decide (s.fr.heads ≤ o.lastHead.toNat), 3),
        (decide (s.fr.zoneCount ≤ o.zone.toNat), 4), ((passesOperand o.passes).isNone, 7),
        ((triggerOperand o.trigger).isNone, 8)] with
    | some n => badValue n
    | none => takenMask (clampMark 5 o.quota.toNat (clamp 1 4096 o.quota.toNat)
        + clampMark 6 o.deadline.toNat (clamp 1 255 o.deadline.toNat)
        + clampMark 10 o.limit.toNat (clamp 0 511 o.limit.toNat)
        + clampMark 11 o.spreadLimit.toNat (clamp 0 511 o.spreadLimit.toNat))

/-- The sweep record with the operands as clamped and the working fields at their start (R78 steps 1 and 2). -/
def loadSweep (o : SweepOperands) (sc : SweepController) : SweepController :=
  { sc with
    kind := (quantityOperand o.kind.toNat).getD sc.kind
    firstHead := Fin.ofNat 16 o.firstHead.toNat
    lastHead := Fin.ofNat 16 o.lastHead.toNat
    zone := Fin.ofNat 32 o.zone.toNat
    quota := clamp 1 4096 o.quota.toNat
    deadline := clamp 1 255 o.deadline.toNat
    passes := (passesOperand o.passes).getD sc.passes
    trigger := (triggerOperand o.trigger).getD sc.trigger
    atSpeed := o.atSpeed
    limit := clamp 0 511 o.limit.toNat
    spreadLimit := clamp 0 511 o.spreadLimit.toNat
    jogThreshold := o.jogThreshold.toNat
    currentHead := Fin.ofNat 16 o.firstHead.toNat
    passNumber := 0
    passesCompleted := 0
    revolutions := 0 }

/-- R78. -/
def applySweep (o : SweepOperands) (s : State) : State :=
  ((s.withSc (loadSweep o s.sc)).clearReports [.headRequest, .cellClosed, .sweepDone]).arm

/-! ## The image directives (R115, R118, R119, R123, R129) -/

/-- A range shares a byte with the capture ring, while one is set (R115). -/
def overlapsCapture (s : State) (a la : Nat) : Bool :=
  match s.tp.captureRing with
  | some r => rangesOverlap a la r.base (32 * r.slots)
  | none => false

/-- A range shares a byte with the result area, while one is set (R115). -/
def overlapsResult (s : State) (a la : Nat) : Bool :=
  match s.tp.resultArea with
  | some b => rangesOverlap a la b Config.resultBytes
  | none => false

/-- R115. -/
def judgeImage (o : ImageOperands) (s : State) : Verdict :=
  let b := o.base.toNat
  let n := o.length.toNat
  let c := o.checksum.toNat
  if s.ip.state = .published then refuse .state
  else
    match lowestFailing [(decide (b % 64 ≠ 0), 1), (decide (n = 0), 2), (decide (n % 64 ≠ 0), 2),
        (decide (65536 < n), 2), (decide (Config.addressSpace < b + n), 1), (decide (c % 2 ≠ 0), 3),
        (decide (n ≤ c), 2)] with
    | some m => badValue m
    | none =>
      if overlapsControl s b n || overlapsCapture s b n || overlapsResult s b n then overlap 1 else taken

/-- R115. -/
def applyImage (o : ImageOperands) (s : State) : State :=
  s.withIp { state := .loading
             window := some { base := o.base.toNat, length := o.length.toNat, checksum := o.checksum.toNat }
             adjustment := 0
             map := [] }

/-- The entry MAP FIELD places (R118). -/
def newEntry (o : FieldOperands) : PatchEntry :=
  { offset := o.offset.toNat, width := o.width.toNat, encoding := (encodingOperand o.encoding).getD .twos,
    scale := o.scale.toNat, head := Fin.ofNat 16 o.head.toNat, zone := Fin.ofNat 32 o.zone.toNat,
    quantity := (quantityOperand o.quantity.toNat).getD .centre, baseline := none, state := .dormant }

/-- The length and the checksum offset of the window, 0 while it is absent. -/
def windowLength (ip : ImagePatcher) : Nat := (ip.window.map ImageWindow.length).getD 0
/-- The checksum offset of the window, 0 while it is absent. -/
def windowChecksum (ip : ImagePatcher) : Nat := (ip.window.map ImageWindow.checksum).getD 0

/-- A field overlaps an entry of the map or the checksum word (R117). -/
def fieldTaken (ip : ImagePatcher) (offset width : Nat) : Bool :=
  fieldsOverlap offset width (windowChecksum ip) 16
    || ip.map.any fun e => fieldsOverlap offset width e.offset e.width

/-- R118. -/
def judgeField (o : FieldOperands) (s : State) : Verdict :=
  if s.ip.state ≠ .loading then refuse .state
  else
    match lowestFailing [(decide (o.width.toNat ≠ 8) && decide (o.width.toNat ≠ 16), 2),
        ((encodingOperand o.encoding).isNone, 3),
        (decide (o.scale.toNat < 4) || decide (14 < o.scale.toNat), 4),
        (decide (s.fr.heads ≤ o.head.toNat), 5), (decide (s.fr.zoneCount ≤ o.zone.toNat), 6),
        ((quantityOperand o.quantity.toNat).isNone, 7),
        (decide (windowLength s.ip ≤ o.offset.toNat), 1),
        (decide (o.width.toNat = 16) && decide (o.offset.toNat % 2 = 1), 1)] with
    | some n => badValue n
    | none =>
      if fieldTaken s.ip o.offset.toNat o.width.toNat then overlap 1
      else if Config.mapEntries ≤ s.ip.map.length then refuse .full
      else taken

/-- R118. -/
def applyField (o : FieldOperands) (s : State) : State :=
  s.withIp { s.ip with map := insertEntry (newEntry o) s.ip.map }

/-- R119. -/
def judgeClearMap (s : State) : Verdict := if s.ip.state = .published then refuse .state else taken

/-- R119. -/
def applyClearMap (s : State) : State := s.withIp { s.ip with map := [] }

/-- R123: the detail of the outcome is the LIVE count in bits 7:0 and the saturated count in bits 23:16
(section 11.3). -/
def judgePublish (s : State) : Verdict :=
  if s.ip.state ≠ .loading then refuse .state
  else { code := .taken, detail := liveCount s.table s.ip.map + 65536 * saturatedCount s.table s.ip.map }

/-- R123. -/
def applyPublish (s : State) : State := s.withIp (s.ip.publish s.table)

/-- R129. -/
def judgeRelease (s : State) : Verdict := if s.ip.state ≠ .published then refuse .state else taken

/-- R129. -/
def applyRelease (s : State) : State := s.withIp s.ip.release

/-! ## The owners together (R148) -/

/-- The outcome with which its owner takes or refuses a directive (R148). HALT is taken in every state (R92). -/
def judgeDirective (d : Directive) (s : State) : Verdict :=
  match d with
  | .setWindows o => judgeWindows o s
  | .setGeometry o => judgeGeometry o s
  | .setZones o => judgeZones o s
  | .setHead o => judgeHead o s
  | .setFollow o => judgeFollow o s
  | .setTimebase o => judgeTimebase o s
  | .setIndex o => judgeIndex o s
  | .setTimer o => judgeTimer o s
  | .setReports m => judgeReports m s
  | .sweep o => judgeSweep o s
  | .halt => taken
  | .clearHead h => judgeClearHead h s
  | .clearHistory h => judgeClearHistory h s
  | .setImage o => judgeImage o s
  | .mapField o => judgeField o s
  | .clearMap => judgeClearMap s
  | .publish => judgePublish s
  | .release => judgeRelease s

/-- The effect of a directive that is taken (R148). -/
def applyDirective (d : Directive) (s : State) : State :=
  match d with
  | .setWindows o => applyWindows o s
  | .setGeometry o => applyGeometry o s
  | .setZones o => applyZones o s
  | .setHead o => applyHead o s
  | .setFollow o => applyFollow o s
  | .setTimebase o => applyTimebase o s
  | .setIndex o => applyIndex o s
  | .setTimer o => applyTimer o s
  | .setReports m => applyReports m s
  | .sweep o => applySweep o s
  | .halt => s.haltSweep
  | .clearHead h => applyClearHead h s
  | .clearHistory h => applyClearHistory h s
  | .setImage o => applyImage o s
  | .mapField o => applyField o s
  | .clearMap => applyClearMap s
  | .publish => applyPublish s
  | .release => applyRelease s

/-- An outcome code with which the directive is taken; every other refuses it (R148). -/
def OutcomeCode.isTaken : OutcomeCode → Bool
  | .taken => true
  | .takenClamped => true
  | .incomplete => false
  | .unknownKind => false
  | .badValue => false
  | .busy => false
  | .overlap => false
  | .state => false
  | .full => false

/-- A directive handed to its owner: judged, and applied when it is taken; a refused directive changes nothing
(R148 step 3). -/
def ownDirective (d : Directive) (s : State) : State :=
  if (judgeDirective d s).code.isTaken then applyDirective d s else s

/-! ## Taking the directive (R148, R149) -/

/-- The set of mailbox words whose written marks are clear, bit w for word w (R149, section 11.3). -/
def unmarkedWords (dd : DirectiveDecoder) : Nat :=
  ((List.range 7).map fun i => if dd.marks.toList.getD i false then 0 else 2 ^ i).sum

/-- The outcome of the directive in the latch, and the state after its owner has acted (R148). -/
def judgeLatch (s : State) : Verdict × State :=
  if unmarkedWords s.dd ≠ 0 then ({ code := .incomplete, detail := unmarkedWords s.dd }, s)
  else
    match readDirective s.dd.latch with
    | none => (refuse .unknownKind, s)
    | some d => (judgeDirective d s, ownDirective d s)

/-- The kind an outcome record names: the kind code in latched word 0, or 0 when the directive was refused INCOMPLETE
with word 0 unmarked (R149). -/
def outcomeKind (dd : DirectiveDecoder) : BitVec 8 := if dd.marks[0] then bits dd.latch[0] 0 8 else 0

/-- A full write of word 7 takes the directive: judged, the marks cleared, the directive counted, and the outcome
record built into the outcome holder (R148, R149). -/
def State.takeDirective (s : State) : State :=
  let r := judgeLatch s
  let count := (s.dd.count + 1) % 65536
  r.2.withDd { s.dd with
    marks := Vector.replicate 7 false
    count := count
    holder := some { kind := outcomeKind s.dd, code := r.1.code, count := count,
                     detail := BitVec.ofNat 32 r.1.detail } }

/-- The outcome record enters the insertion queue at control region offset 0x020, and the holder empties (R151, R152). -/
def State.enterOutcome (s : State) (r : OutcomeRecord) : State :=
  (s.withTp (enqueue { addr := s.tp.controlBase.getD 0 + 0x20, words := outcomeWords r, kind := .outcome } s.tp)).withDd
    { s.dd with holder := none }

/-- The record of the outcome holder enters if an entry is free (R151). -/
def State.tryEnterOutcome (s : State) : State :=
  match s.dd.holder with
  | some r => if 0 < freeEntries s.tp then s.enterOutcome r else s
  | none => s

/-- The Directive Decoder takes a word of the mailbox below the go word (R147): a full write latches it and sets its
mark, a partial write clears the mark. -/
def DirectiveDecoder.latchWord (dd : DirectiveDecoder) (n : Fin 7) (w : WordWrite) : DirectiveDecoder :=
  if w.full then { dd with latch := dd.latch.set n w.data, marks := dd.marks.set n true }
  else { dd with marks := dd.marks.set n false }

end Sys2Proof.Machine
end

