-- ==== Sys2Proof/Machine/Reports.lean ====
section
/-! DEFINITION. Chapter 8: granting a slot (R138, R139), and the effect of an inserted write's answer (R70, R142, R143,
R162, R166). -/

namespace Sys2Proof.Machine

/-! ## Granting (R138, R139) -/

/-- The conditions of a grant that do not depend on the entry: the slot at the write index is not occupied, at least 4
entries of the insertion queue are free, and both holders have been served (R138, R161). -/
def State.grantOpen (s : State) : Bool :=
  !s.ra.marks[s.ra.writeIndex] && decide (Config.grantFreeEntries ≤ freeEntries s.tp)
    && s.dd.holder.isNone && s.sc.holder.isNone

/-- A kind has an entry pending, and its level may be granted at this occupancy (R138). -/
def ReportArbiter.grantable (ra : ReportArbiter) (k : ReportKind) : Bool :=
  (ra.entry k).isSome && (k.urgent || decide (ra.occupancy < Config.routineLimit))

/-- The kind the arbiter grants next: the first in the order of R138 that is grantable. -/
def ReportArbiter.nextGrant (ra : ReportArbiter) : Option ReportKind := ReportKind.order.find? ra.grantable

/-- The detail a report is built with: FRAME FAULT takes the Frame Reducer's two counts and INSERT FAULT the tally, as
they stand at the grant (R139, R143). -/
def State.grantDetail (s : State) (k : ReportKind) (d : ReportDetail) : ReportDetail :=
  match k with
  | .frameFault => { d with a := s.fr.torn, b := s.fr.badWedge }
  | .insertFault => { d with b := faultDetail d.b s.ra.tally }
  | .referenceLost => d
  | .spindleFault => d
  | .sweepAborted => d
  | .resultOverrun => d
  | .headRequest => d
  | .cellClosed => d
  | .sweepDone => d
  | .noLock => d
  | .spindleReady => d

/-- The counts that restart at 0 at a grant: the Frame Reducer's with FRAME FAULT (R8), the tally with INSERT FAULT
(R143). -/
def State.restartCounts (s : State) (k : ReportKind) : State :=
  match k with
  | .frameFault => s.withFr { s.fr with torn := 0, badWedge := 0 }
  | .insertFault => s.withRa { s.ra with tally := 0 }
  | .referenceLost => s
  | .spindleFault => s
  | .sweepAborted => s
  | .resultOverrun => s
  | .headRequest => s
  | .cellClosed => s
  | .sweepDone => s
  | .noLock => s
  | .spindleReady => s

/-- The address of a report slot (chapter 8: slot s lies at the control region base plus 0x800 + 32 × s). -/
def slotAddress (base : Option Nat) (n : Fin 64) : Nat := base.getD 0 + 0x800 + 32 * n.val

/-- A pending entry is granted the slot at the write index, in the order of R139. -/
def State.grant (s : State) (k : ReportKind) (e : PendingEntry) : State :=
  let slot := s.ra.writeIndex
  let words := reportWords k e.repeats (s.grantDetail k e.detail)
  let counted := s.restartCounts k
  let queued := counted.withTp
    (enqueue { addr := slotAddress s.tp.controlBase slot, words := words, kind := .report slot } counted.tp)
  queued.withRa { (queued.ra.setEntry k none).occupy slot with writeIndex := slot + 1 }

/-- The Report Arbiter makes one grant, if it can (R138). -/
def State.tryGrant (s : State) : State :=
  if s.grantOpen then
    match s.ra.nextGrant with
    | some k =>
      match s.ra.entry k with
      | some e => s.grant k e
      | none => s
    | none => s
  else s

/-! ## The answer of an inserted write (R162, R166) -/

/-- A write at the upstream port waits for one record less (R164). -/
def lowerHold : Upstream → Upstream
  | .write p => .write { p with hold := p.hold - 1 }
  | .read r => .read r

/-- The front record leaves the insertion queue, and one entry frees (R162). -/
def popQueue (tp : TransferPath) : TransferPath :=
  { tp with queue := tp.queue.drop 1, inFlight := false, upstream := tp.upstream.map lowerHold }

/-- A later result record of a cell is still queued (R70). -/
def laterResult (q : List QueueEntry) (c : Fin 512) : Bool := q.any fun e => e.kind == .result c

/-- The effect of a faulted insert by its record kind (R70, R142, R166), the record having left the queue. -/
def State.dropRecord (s : State) (e : QueueEntry) : State :=
  match e.kind with
  | .result c => if laterResult s.tp.queue c then s else s.withTable (s.table.setUnread c false)
  | .report n => s.withRa (s.ra.free n)
  | .outcome => s

/-- The record in flight, if one is. -/
def flying (tp : TransferPath) : Option QueueEntry := if tp.inFlight then tp.queue.head? else none

/-- The record in flight is answered OKAY (R143, R162). -/
def State.insertOkay (s : State) : State :=
  match flying s.tp with
  | some _ => (s.withTp (popQueue s.tp)).withRa s.ra.insertOkay
  | none => s

/-- The record in flight is answered ERROR: it leaves the queue, the effect of its kind follows, and the fault is
counted, all in one step (R143, R162, R166). -/
def State.insertError (s : State) : State :=
  match flying s.tp with
  | some e =>
    let dropped := (s.withTp (popQueue s.tp)).dropRecord e
    dropped.withRa (dropped.ra.insertFault e)
  | none => s

/-- Two words of a record as one beat with every byte enable set, the lower-addressed word in the lower half (R168). -/
def recordBeat (words : List Word) (n : Nat) : Beat :=
  { data := beatOf (words.getD (n + 1) 0) (words.getD n 0), lanes := 0xFF }

/-- The write of a record: one burst of 4 beats at its address, every byte enable set (R162, R168). -/
def recordBurst (e : QueueEntry) : WriteBurst :=
  { addr := BitVec.ofNat 32 e.addr
    beats := [recordBeat e.words 0, recordBeat e.words 2, recordBeat e.words 4, recordBeat e.words 6] }

/-- The front record is issued downstream (R162). -/
def State.issueInsert (s : State) : State :=
  match s.tp.inFlight, s.tp.queue with
  | false, e :: _ => (s.withTp { s.tp with inFlight := true }).sendDown (.insert (recordBurst e))
  | false, [] => s
  | true, _ => s

/-! ## The commands -/

/-- REPORT_GRANT (R138, R139). -/
def execReportGrant (s : State) : Host.Outcome State Fault Refusal := .next (whenRunning s State.tryGrant)

/-- INSERT_ISSUE (R162). -/
def execInsertIssue (s : State) : Host.Outcome State Fault Refusal := .next (whenRunning s State.issueInsert)

/-- INSERT_WRITE_OKAY (R143, R162). -/
def execInsertWriteOkay (s : State) : Host.Outcome State Fault Refusal := .next (whenRunning s State.insertOkay)

/-- INSERT_WRITE_ERROR (R166). -/
def execInsertWriteError (s : State) : Host.Outcome State Fault Refusal := .next (whenRunning s State.insertError)

end Sys2Proof.Machine
end

