-- ==== Sys2Proof/Machine/Path.lean ====
section
/-! DEFINITION. Chapter 10 and sections 1.2 to 1.5: the words of a write taken by the block that watches their window
(R2 to R8, R18 to R20, R116, R147, R156), holds and stalls (R163 to R165), and the answers of the bench's transactions
(R68, R116, R125, R140, R156, R163). -/

namespace Sys2Proof.Machine

/-! ## Frame words 5, 6 and 7 (R18 to R20) -/

/-- Taking word 5: the frame is reduced, and the record keeps the reduction and the follow state reported (R9, R18). -/
def reduceWord5 (s : State) (f : FrameRecord) : FrameRecord × Word :=
  let rec_ := s.fm.record f.head
  let r := reduceFrame s.fr rec_.floor rec_.signal f
  let shown :=
    if r.grade = .foreign then .unseen else answerFollow s.fr.wpr s.fr.gapLimit s.fm (seenFrame f r)
  ({ f with reduction := some r, shown := shown, expects := 6 }, annotation5 r shown)

/-- A reduction not made yet: it is read from word 5 on alone (R1). -/
def blankReduction : Reduction :=
  { offset := 0, region := .normal, grade := .foreign, zone := 31, zoneUnknown := true, signalSum := 0 }

/-- Taking word 6: the Sweep Controller's answer (R19, R94). -/
def answerWord6 (s : State) (f : FrameRecord) : FrameRecord × Word :=
  let r := f.reduction.getD blankReduction
  let a := answerSweep s.sc s.tsm.spindle f.head r f.shown
  ({ f with expects := 7 }, annotation6 a.1 a.2.1 a.2.2)

/-- A frame that is not FOREIGN completes: the Follow Monitor, then the Sweep Controller, then the bad-wedge count
(R20 steps 1 to 3); with the count g. -/
def State.completeSeen (s : State) (f : FrameRecord) (r : Reduction) : State × Nat :=
  let fm := s.followStep (seenFrame f r)
  let swept := fm.1.sweepFrame
    { head := f.head, reduction := r, amplitude := f.amplitude, follow := (fm.1.fm.record f.head).state,
      missed := fm.2.missed, slip := fm.2.slip }
  (if swept.fr.wpr ≤ f.wedge then swept.countBadWedge else swept, fm.2.gap)

/-- Taking word 7 completes the frame (R20): neither the Follow Monitor nor the Sweep Controller acts on a FOREIGN
frame (R11, R83); the frame assembly record becomes absent; word 7 carries the signal sum and g. -/
def State.completeFrame (s : State) (f : FrameRecord) : State × Word :=
  let r := f.reduction.getD blankReduction
  let done := if r.grade = .foreign then (s, 0) else s.completeSeen f r
  (done.1.withFr { done.1.fr with frame := none }, annotation7 r.signalSum done.2)

/-! ## A word of a write (R2 to R8, R116, R147) -/

/-- What the taking of one word leaves: the state, the data the word carries downstream, the slot run, and what stalls
the write. -/
structure TakenWord where
  state : State
  data : Word
  run : Option SlotRun
  stall : Option Stall
  deriving DecidableEq, Repr

/-- A word that passes unaltered. -/
def passWord (s : State) (w : WordWrite) (run : Option SlotRun) : TakenWord :=
  { state := s, data := w.data, run := run, stall := none }

/-- The next expected word of a frame is taken (R4). The write stalls when the close its word 7 causes leaves the
result holder occupied (R20, R165). -/
def takeFrameWord (s : State) (w : WordWrite) (run : Option SlotRun) (f : FrameRecord) : TakenWord :=
  match f.expects with
  | 5 =>
    let r := reduceWord5 s f
    { state := s.withFr { s.fr with frame := some r.1 }, data := r.2, run := run, stall := none }
  | 6 =>
    let r := answerWord6 s f
    { state := s.withFr { s.fr with frame := some r.1 }, data := r.2, run := run, stall := none }
  | 7 =>
    let r := s.completeFrame f
    { state := r.1, data := r.2, run := run,
      stall := if s.sc.holder.isNone && r.1.sc.holder.isSome then some .result else none }
  | _ => passWord (s.withFr { s.fr with frame := some (latchFrameWord f w.data) }) w run

/-- The slot run a word belongs to: the present one in the same slot, or a new one (R2). -/
def slotRun (run : Option SlotRun) (slot : Nat) : SlotRun :=
  match run with
  | some r => if r.slot = slot then r else { slot := slot, counted := false }
  | none => { slot := slot, counted := false }

/-- A stray word: its slot run adds 1 to the torn count once, and nothing after a tear in the same run (R6). -/
def takeStray (s : State) (w : WordWrite) (run : SlotRun) : TakenWord :=
  if run.counted then passWord s w (some run) else passWord s.countTorn w (some { run with counted := true })

/-- The Frame Reducer takes a word of a capture slot, by the cases of R3 to R6. -/
def takeCapture (s : State) (w : WordWrite) (prior : Option SlotRun) (slot n : Nat) : TakenWord :=
  let run := slotRun prior slot
  if w.full && decide (n = 0) then
    let cleared := match s.fr.frame with
      | some _ => s.tearFrame
      | none => s
    passWord (cleared.withFr { cleared.fr with frame := some (startFrame slot w.data) }) w (some run)
  else
    match s.fr.frame with
    | none => takeStray s w run
    | some f =>
      if f.slot = slot then
        if w.full && decide (n = f.expects) then takeFrameWord s w (some run) f
        else passWord s.tearFrame w (some { run with counted := true })
      else takeStray s w run

/-- The go word is taken: the directive takes effect, its outcome record enters the queue if it can, and the write
stalls otherwise (R148, R151, R165). -/
def takeGo (s : State) (w : WordWrite) : TakenWord :=
  let t := s.takeDirective.tryEnterOutcome
  { state := t, data := w.data, run := none, stall := if t.dd.holder.isSome then some .outcome else none }

/-- The Directive Decoder takes a word of the mailbox (R147). -/
def takeMailbox (s : State) (w : WordWrite) (n : Nat) : TakenWord :=
  if h : n < 7 then passWord (s.withDd (s.dd.latchWord ⟨n, h⟩ w)) w none
  else if w.full then takeGo s w
  else passWord s w none

/-- A word of a write is taken by the block that watches its window (R156, R158); a word with no byte enables set is
not written, and its block passes over it (R2, R147). -/
def takeWord (s : State) (w : WordWrite) (run : Option SlotRun) : TakenWord :=
  if w.unwritten then passWord s w run
  else
    match decodeWrite s.tp s.ip w.addr with
    | .mailbox n => takeMailbox s w n
    | .capture slot n => takeCapture s w run slot n
    | .image o => passWord (s.withIp (s.ip.write o w.data w.enables)) w none
    | .elsewhere => passWord s w none

/-! ## A write at the upstream port (R156, R164, R165) -/

/-- The words of a write are taken in ascending address order, each judged against the queue as it is taken (R164),
until they are all taken or one stalls the write (R165). -/
def takeWords : List WordWrite → WriteProgress → State → WriteProgress × State
  | [], p, s => ({ p with todo := [], stall := none }, s)
  | w :: rest, p, s =>
    let t := takeWord s w p.run
    let p' := { p with
      taken := p.taken ++ [{ w with data := t.data }]
      run := t.run
      hold := max p.hold (holdDepth s.tp.queue w) }
    match t.stall with
    | some h => ({ p' with todo := rest, stall := some h }, t.state)
    | none => takeWords rest p' t.state

/-- A write whose words are all taken and which nothing holds or stalls passes downstream; otherwise it stays at the
front of the upstream port (R156). `rest` is what arrived after it. -/
def settleWrite (p : WriteProgress) (rest : List Upstream) (s : State) : State :=
  if p.stall.isNone && decide (p.hold = 0) then
    (s.withTp { s.tp with upstream := rest, outstanding := s.tp.outstanding ++ [.write p.addr] }).sendDown
      (.write p.addr p.taken)
  else s.withTp { s.tp with upstream := .write p :: rest }

/-- A write waits at the port with words left before its first word, or after a word that was the last of its slot run: word 7
of a slot, or the go word (R165). The words left therefore begin slot runs of their own (R2). -/
def WriteProgress.resumed (p : WriteProgress) : WriteProgress :=
  match p.todo with
  | [] => p
  | _ :: _ => { p with run := none }

/-- A write at the front of the upstream port goes on: its remaining words are taken, and it passes if it can. The blocks
that take words do not look at the upstream port: it stands empty for them, and is filled again after the last word. -/
def advanceWrite (p : WriteProgress) (rest : List Upstream) (s : State) : State :=
  let r := takeWords p.todo p.resumed (s.withTp { s.tp with upstream := [] })
  settleWrite r.1 rest r.2

/-- A read at the front of the upstream port passes downstream unless a queued record it overlaps holds it (R163); whether it
is a read of the result area, and the notices it may give, are by the windows as they stand when it passes (R68, R140,
R158). -/
def advanceRead (b : ReadBurst) (rest : List Upstream) (s : State) : State :=
  if readHeld s.tp.queue b then s.withTp { s.tp with upstream := .read b :: rest }
  else
    (s.withTp { s.tp with
      upstream := rest
      outstanding := s.tp.outstanding ++ [.read b (asksResultArea s.tp b) (noticeCells s.tp b) (noticeSlots s.tp b)] }).sendDown (.read b)

/-- The transaction at the front of the upstream port goes on. A stalled write waits for its record's entry (R165). -/
def State.serveFront (s : State) : State :=
  match s.tp.upstream with
  | [] => s
  | .read b :: rest => advanceRead b rest s
  | .write p :: rest =>
    match p.stall with
    | some _ => s
    | none => advanceWrite p rest s

/-- A write that has just arrived, none of its words taken. -/
def newWrite (w : WriteBurst) : WriteProgress :=
  { addr := w.addr.toNat, taken := [], todo := burstWords w, run := none, hold := 0, stall := none }

/-- A transaction arrives at the upstream port: it goes on at once, or waits behind those that arrived before it
(R156). -/
def State.arrive (s : State) (x : Upstream) : State :=
  match s.tp.upstream with
  | [] => (s.withTp { s.tp with upstream := [x] }).serveFront
  | _ :: _ => s.withTp { s.tp with upstream := s.tp.upstream ++ [x] }

/-- The front write, stalled for a holder, goes on once that holder's record has entered the queue (R165). -/
def State.endStall (s : State) (h : Stall) : State :=
  match s.tp.upstream with
  | .write p :: rest =>
    if p.stall = some h then (s.withTp { s.tp with upstream := .write { p with stall := none } :: rest }).serveFront
    else s
  | .read _ :: _ => s
  | [] => s

/-! ## The answers of the bench's transactions (R68, R116, R140, R156) -/

/-- The read notices of an answered read: the unread flag of each cell becomes clear (R68). -/
def clearUnreadCells (t : AlignmentTable) (cells : List (Fin 512)) : AlignmentTable :=
  cells.foldl (fun t c => t.setUnread c false) t

/-- The consumption notices of an answered read (R140). -/
def ReportArbiter.consume (ra : ReportArbiter) (slots : List (Fin 64)) : ReportArbiter :=
  slots.foldl (fun r n => r.free n) ra

/-- A read is answered OKAY: its notices are given, and its data passes back through the Image Patcher (R68, R125,
R140, R156). -/
def State.readOkay (s : State) (b : ReadBurst) (cells : List (Fin 512)) (slots : List (Fin 64))
    (data : List (BitVec 64)) : State :=
  ((s.withTable (clearUnreadCells s.table cells)).withRa (s.ra.consume slots)).replyUp
    (.readReply b .okay (returnBeats (substituteBeat s.ip) (firstBeat b.addr) b.lanes data))

/-- The data a read answered ERROR carries upstream: none for a read that asked for a byte of the result area as it passed
(R68, R158), and for any other the data as memory gave it (R116, R156). R68 and R116 differ, and which of them governs a read
of neither window or of both is the model's choice (DESIGN CHOICE, assumption log 28). -/
def errorBeats (ofResult : Bool) (b : ReadBurst) (data : List (BitVec 64)) : List Beat :=
  if ofResult then [] else returnBeats (fun _ d => d) (firstBeat b.addr) b.lanes data

/-- A read is answered ERROR: it gives no notice and is not substituted (R68, R116, R166), and a read of the result area
returns no data (R68; DESIGN CHOICE, assumption log 28). -/
def State.readError (s : State) (b : ReadBurst) (ofResult : Bool) (data : List (BitVec 64)) : State :=
  s.replyUp (.readReply b .error (errorBeats ofResult b data))

/-- The `k`-th outstanding transaction leaves the list. -/
def State.dropOutstanding (s : State) (k : Nat) : State :=
  s.withTp { s.tp with outstanding := s.tp.outstanding.eraseIdx k }

/-- The downstream port answers the `k`-th outstanding transaction, when that is a read (assumption log 5). -/
def State.answerRead (s : State) (k : Nat) (resp : Response) (data : List (BitVec 64)) : State :=
  match s.tp.outstanding[k]? with
  | some (.read b ofResult cells slots) =>
    match resp with
    | .okay => (s.dropOutstanding k).readOkay b cells slots data
    | .error => (s.dropOutstanding k).readError b ofResult data
  | some (.write _) => s
  | none => s

/-- The downstream port answers the `k`-th outstanding transaction, when that is a write: its response goes upstream
unchanged (R156, R166). -/
def State.answerWrite (s : State) (k : Nat) (resp : Response) : State :=
  match s.tp.outstanding[k]? with
  | some (.write a) => (s.dropOutstanding k).replyUp (.writeReply a resp)
  | some (.read _ _ _ _) => s
  | none => s

/-- What the bus does with a read (R156). -/
def State.busRead (s : State) (b : BusRead) : State :=
  match b with
  | .arrive r => s.arrive (.read r)
  | .answer k resp data => s.answerRead k resp data

/-- What the bus does with a write (R156). -/
def State.busWrite (s : State) (b : BusWrite) : State :=
  match b with
  | .arrive w => s.arrive (.write (newWrite w))
  | .answer k resp => s.answerWrite k resp

end Sys2Proof.Machine
end

