-- ==== Sys2Proof/Machine/BusCommands.lean ====
section
/-! DEFINITION. The commands of the upstream port and of the queue's holders, and device reset. -/

namespace Sys2Proof.Machine

/-- CAPTURE_WRITE (R2): what each word does is decided by its address (R156, R158). -/
def execCaptureWrite (w : WriteBurst) (s : State) : Host.Outcome State Fault Refusal :=
  .next (whenRunning s fun s => s.arrive (.write (newWrite w)))

/-- MAILBOX_WRITE (R147). -/
def execMailboxWrite (w : WriteBurst) (s : State) : Host.Outcome State Fault Refusal :=
  .next (whenRunning s fun s => s.arrive (.write (newWrite w)))

/-- IMAGE_WRITE (R120). -/
def execImageWrite (w : WriteBurst) (s : State) : Host.Outcome State Fault Refusal :=
  .next (whenRunning s fun s => s.arrive (.write (newWrite w)))

/-- UPSTREAM_WRITE (R164, R166). -/
def execUpstreamWrite (b : BusWrite) (s : State) : Host.Outcome State Fault Refusal :=
  .next (whenRunning s fun s => s.busWrite b)

/-- RESULT_READ_NOTICE (R68, R69, R163). -/
def execResultReadNotice (b : BusRead) (s : State) : Host.Outcome State Fault Refusal :=
  .next (whenRunning s fun s => s.busRead b)

/-- CONSUMPTION_NOTICE (R140, R163). -/
def execConsumptionNotice (b : BusRead) (s : State) : Host.Outcome State Fault Refusal :=
  .next (whenRunning s fun s => s.busRead b)

/-- IMAGE_READ (R116, R125, R126, R130). -/
def execImageRead (b : BusRead) (s : State) : Host.Outcome State Fault Refusal :=
  .next (whenRunning s fun s => s.busRead b)

/-- HELD_TRANSACTION_RELEASE (R163, R164): the front transaction of the upstream port goes on if nothing holds it. -/
def execHeldTransactionRelease (s : State) : Host.Outcome State Fault Refusal :=
  .next (whenRunning s State.serveFront)

/-- OUTCOME_RECORD_ENTRY (R151): the outcome record enters when an entry is free, and the held go word is released. -/
def execOutcomeRecordEntry (s : State) : Host.Outcome State Fault Refusal :=
  .next (whenRunning s fun s =>
    match s.dd.holder with
    | some r => if 0 < freeEntries s.tp then (s.enterOutcome r).endStall .outcome else s
    | none => s)

/-- RESULT_RECORD_ENTRY (R108): the result record enters when an entry is free and the outcome holder is empty, and a
frame word 7 write held for it is released. -/
def execResultRecordEntry (s : State) : Host.Outcome State Fault Refusal :=
  .next (whenRunning s fun s =>
    match s.sc.holder with
    | some r => if s.resultCanEnter then (s.enterResult r).endStall .result else s
    | none => s)

/-- The ERROR response that ends a transaction held or waiting at the upstream port (R167). -/
def endUpstream : Upstream → UpEvent
  | .write p => .writeReply p.addr .error
  | .read b => .readReply b .error []

/-- The ERROR response that ends a transaction already sent downstream (R167). -/
def endOutstanding : Outstanding → UpEvent
  | .write a => .writeReply a .error
  | .read b _ _ _ => .readReply b .error []

/-- RESET_ASSERT (R167): every upstream transaction without a response is ended with ERROR, and every block returns to
its reset values. What has passed at the ports stays on record, and the commands that wait go on waiting. -/
def execResetAssert (s : State) : Host.Outcome State Fault Refusal :=
  .next { State.reset with
    ports := { s.ports with
      up := s.ports.up ++ s.tp.outstanding.map endOutstanding ++ s.tp.upstream.map endUpstream }
    pending := s.pending }

/-- The control region base for the straps: s × 0x4000_0000 + 0x3FFF_F000, s = 2 × STRAP1 + STRAP0 (R157). -/
def controlBaseOf (strap1 strap0 : Bool) : Nat :=
  (2 * strap1.toNat + strap0.toNat) * 0x40000000 + 0x3FFFF000

/-- RESET_RELEASE (R157): the straps are sampled and the control region is present. They are not looked at again until
the next device reset. -/
def execResetRelease (strap1 strap0 : Bool) (s : State) : Host.Outcome State Fault Refusal :=
  .next (if s.resetLow then
    { s with resetLow := false, tp := { s.tp with controlBase := some (controlBaseOf strap1 strap0) } }
  else s)

end Sys2Proof.Machine
end

