-- ==== Sys2Proof/Machine/DirectiveCommands.lean ====
section
/-! DEFINITION. The directive commands: software writes the directive as one burst at the mailbox, and the write is
taken word by word like any other (R147, R148, section 9.8; assumption log 3). -/

namespace Sys2Proof.Machine

/-- A whole directive is written as one 4-beat burst at the mailbox. -/
def State.writeDirective (s : State) (d : Directive) : State :=
  match s.tp.controlBase with
  | some b => s.arrive (.write (newWrite (directiveBurst b d)))
  | none => s

/-- The go word is written alone, full. -/
def State.writeGo (s : State) (go : Word) : State :=
  match s.tp.controlBase with
  | some b => s.arrive (.write (newWrite (goBurst b go)))
  | none => s

/-- UNKNOWN_KIND (R148): a full go word by itself; an incomplete latch or an unrecognised kind is refused, counted and
answered, and any other latch is handed to its owner. -/
def execUnknownKind (go : Word) (s : State) : Host.Outcome State Fault Refusal :=
  .next (whenRunning s fun s => s.writeGo go)

/-- SET_WINDOWS (R159, R160). -/
def execSetWindows (o : WindowOperands) (s : State) : Host.Outcome State Fault Refusal :=
  .next (whenRunning s fun s => s.writeDirective (.setWindows o))

/-- SET_GEOMETRY (R22, R43). -/
def execSetGeometry (o : GeometryOperands) (s : State) : Host.Outcome State Fault Refusal :=
  .next (whenRunning s fun s => s.writeDirective (.setGeometry o))

/-- SET_ZONES (R23). -/
def execSetZones (o : ZoneOperands) (s : State) : Host.Outcome State Fault Refusal :=
  .next (whenRunning s fun s => s.writeDirective (.setZones o))

/-- SET_HEAD (R39). -/
def execSetHead (o : HeadOperands) (s : State) : Host.Outcome State Fault Refusal :=
  .next (whenRunning s fun s => s.writeDirective (.setHead o))

/-- SET_FOLLOW (R40). -/
def execSetFollow (o : FollowOperands) (s : State) : Host.Outcome State Fault Refusal :=
  .next (whenRunning s fun s => s.writeDirective (.setFollow o))

/-- SET_TIMEBASE (R47). -/
def execSetTimebase (o : TimebaseOperands) (s : State) : Host.Outcome State Fault Refusal :=
  .next (whenRunning s fun s => s.writeDirective (.setTimebase o))

/-- SET_INDEX (R56). -/
def execSetIndex (o : IndexOperands) (s : State) : Host.Outcome State Fault Refusal :=
  .next (whenRunning s fun s => s.writeDirective (.setIndex o))

/-- SET_TIMER (R59). -/
def execSetTimer (o : TimerOperands) (s : State) : Host.Outcome State Fault Refusal :=
  .next (whenRunning s fun s => s.writeDirective (.setTimer o))

/-- SET_REPORTS (R137). -/
def execSetReports (mask : Word) (s : State) : Host.Outcome State Fault Refusal :=
  .next (whenRunning s fun s => s.writeDirective (.setReports mask))

/-- SWEEP (R77, R78). -/
def execSweep (o : SweepOperands) (s : State) : Host.Outcome State Fault Refusal :=
  .next (whenRunning s fun s => s.writeDirective (.sweep o))

/-- HALT (R92). -/
def execHalt (s : State) : Host.Outcome State Fault Refusal :=
  .next (whenRunning s fun s => s.writeDirective .halt)

/-- CLEAR_HEAD (R42, R72). -/
def execClearHead (head : BitVec 8) (s : State) : Host.Outcome State Fault Refusal :=
  .next (whenRunning s fun s => s.writeDirective (.clearHead head))

/-- CLEAR_HISTORY (R41). -/
def execClearHistory (head : BitVec 8) (s : State) : Host.Outcome State Fault Refusal :=
  .next (whenRunning s fun s => s.writeDirective (.clearHistory head))

/-- SET_IMAGE (R115). -/
def execSetImage (o : ImageOperands) (s : State) : Host.Outcome State Fault Refusal :=
  .next (whenRunning s fun s => s.writeDirective (.setImage o))

/-- MAP_FIELD (R118). -/
def execMapField (o : FieldOperands) (s : State) : Host.Outcome State Fault Refusal :=
  .next (whenRunning s fun s => s.writeDirective (.mapField o))

/-- CLEAR_MAP (R119). -/
def execClearMap (s : State) : Host.Outcome State Fault Refusal :=
  .next (whenRunning s fun s => s.writeDirective .clearMap)

/-- PUBLISH (R123). -/
def execPublish (s : State) : Host.Outcome State Fault Refusal :=
  .next (whenRunning s fun s => s.writeDirective .publish)

/-- RELEASE (R129). -/
def execRelease (s : State) : Host.Outcome State Fault Refusal :=
  .next (whenRunning s fun s => s.writeDirective .release)

end Sys2Proof.Machine
end

