-- ==== Sys2Proof/Machine/Dispatch.lean ====
section
/-! DEFINITION. One arm per command: the meaning of each row of spec/opcode_table.json. -/

namespace Sys2Proof.Machine

def exec (i : Instr) (s : State) : Host.Outcome State Fault Refusal :=
  match i with
  | .resetAssert => Sys2Proof.Machine.execResetAssert s
  | .resetRelease strap1 strap0 => Sys2Proof.Machine.execResetRelease strap1 strap0 s
  | .captureWrite w => Sys2Proof.Machine.execCaptureWrite w s
  | .mailboxWrite w => Sys2Proof.Machine.execMailboxWrite w s
  | .unknownKind go => Sys2Proof.Machine.execUnknownKind go s
  | .setWindows o => Sys2Proof.Machine.execSetWindows o s
  | .setGeometry o => Sys2Proof.Machine.execSetGeometry o s
  | .setZones o => Sys2Proof.Machine.execSetZones o s
  | .setHead o => Sys2Proof.Machine.execSetHead o s
  | .setFollow o => Sys2Proof.Machine.execSetFollow o s
  | .setTimebase o => Sys2Proof.Machine.execSetTimebase o s
  | .setIndex o => Sys2Proof.Machine.execSetIndex o s
  | .setTimer o => Sys2Proof.Machine.execSetTimer o s
  | .setReports mask => Sys2Proof.Machine.execSetReports mask s
  | .sweep o => Sys2Proof.Machine.execSweep o s
  | .halt => Sys2Proof.Machine.execHalt s
  | .clearHead head => Sys2Proof.Machine.execClearHead head s
  | .clearHistory head => Sys2Proof.Machine.execClearHistory head s
  | .setImage o => Sys2Proof.Machine.execSetImage o s
  | .mapField o => Sys2Proof.Machine.execMapField o s
  | .clearMap => Sys2Proof.Machine.execClearMap s
  | .publish => Sys2Proof.Machine.execPublish s
  | .release => Sys2Proof.Machine.execRelease s
  | .outcomeRecordEntry => Sys2Proof.Machine.execOutcomeRecordEntry s
  | .resultRecordEntry => Sys2Proof.Machine.execResultRecordEntry s
  | .reportGrant => Sys2Proof.Machine.execReportGrant s
  | .insertIssue => Sys2Proof.Machine.execInsertIssue s
  | .insertWriteOkay => Sys2Proof.Machine.execInsertWriteOkay s
  | .insertWriteError => Sys2Proof.Machine.execInsertWriteError s
  | .heldTransactionRelease => Sys2Proof.Machine.execHeldTransactionRelease s
  | .resultReadNotice b => Sys2Proof.Machine.execResultReadNotice b s
  | .consumptionNotice b => Sys2Proof.Machine.execConsumptionNotice b s
  | .imageWrite w => Sys2Proof.Machine.execImageWrite w s
  | .imageRead b => Sys2Proof.Machine.execImageRead b s
  | .upstreamWrite b => Sys2Proof.Machine.execUpstreamWrite b s
  | .tick => Sys2Proof.Machine.execTick s
  | .indexEvent e => Sys2Proof.Machine.execIndexEvent e s
  | .indexTimeout => Sys2Proof.Machine.execIndexTimeout s
  | .timerExpiry => Sys2Proof.Machine.execTimerExpiry s
  | .srefLoss => Sys2Proof.Machine.execSrefLoss s
  | .srefRisingEdge => Sys2Proof.Machine.execSrefRisingEdge s

end Sys2Proof.Machine
end

