-- ==== Sys2Proof/WellFormed.lean ====
section
/-! DEFINITION. Which commands can occur: a transaction is one burst of 1 to 16 beats, at an address that is a multiple
of 8, inside the 32-bit address space (section 10.1), and an answer OKAY returns 1 to 16 beats of a read. A directive carries
any operands at all: its owner judges them (R148). -/

namespace Sys2Proof

/-- A burst of `n` beats from `a` is one the ports can carry (section 10.1). -/
def burstOk (a : Word) (n : Nat) : Bool :=
  decide (1 ≤ n) && decide (n ≤ 16) && decide (a.toNat % 8 = 0)
    && decide (a.toNat + 8 * n ≤ Config.addressSpace)

/-- Section 10.1, for a write. -/
def WriteBurst.wf (w : WriteBurst) : Bool := burstOk w.addr w.beats.length

/-- Section 10.1, for a read. -/
def ReadBurst.wf (r : ReadBurst) : Bool := burstOk r.addr r.lanes.length

/-- A write of the bench is well-formed when its burst is; an answer always is. -/
def BusWrite.wf : BusWrite → Bool
  | .arrive w => w.wf
  | .answer _ _ => true

/-- A read of the bench is well-formed when its burst is; its answer OKAY brings 1 to 16 beats (R116), and its answer ERROR
at most 16 (R68, R116; assumption log 28). -/
def BusRead.wf : BusRead → Bool
  | .arrive r => r.wf
  | .answer _ .okay d => decide (1 ≤ d.length) && decide (d.length ≤ 16)
  | .answer _ .error d => decide (d.length ≤ 16)

/-- A command the part can be given. -/
def Instr.wf : Instr → Bool
  | .captureWrite w => w.wf
  | .mailboxWrite w => w.wf
  | .imageWrite w => w.wf
  | .upstreamWrite b => b.wf
  | .resultReadNotice b => b.wf
  | .consumptionNotice b => b.wf
  | .imageRead b => b.wf
  | .resetAssert => true
  | .resetRelease _ _ => true
  | .unknownKind _ => true
  | .setWindows _ => true
  | .setGeometry _ => true
  | .setZones _ => true
  | .setHead _ => true
  | .setFollow _ => true
  | .setTimebase _ => true
  | .setIndex _ => true
  | .setTimer _ => true
  | .setReports _ => true
  | .sweep _ => true
  | .halt => true
  | .clearHead _ => true
  | .clearHistory _ => true
  | .setImage _ => true
  | .mapField _ => true
  | .clearMap => true
  | .publish => true
  | .release => true
  | .outcomeRecordEntry => true
  | .resultRecordEntry => true
  | .reportGrant => true
  | .insertIssue => true
  | .insertWriteOkay => true
  | .insertWriteError => true
  | .heldTransactionRelease => true
  | .tick => true
  | .indexEvent _ => true
  | .indexTimeout => true
  | .timerExpiry => true
  | .srefLoss => true
  | .srefRisingEdge => true

end Sys2Proof
end

