-- ==== Sys2Proof/Safety.lean ====
section
/-! DEFINITION. What the claims speak of: the conditions under which a command reaches its block, the answer a directive
gets, and the invariants of each block that every step keeps. -/

namespace Sys2Proof.Machine

/-! ## Conditions on the state -/

/-- The part runs: RESET is high and the control region lies at one of the four bases (R157). -/
def Running (b : Nat) (s : State) : Prop :=
  s.resetLow = false ∧ s.tp.controlBase = some b ∧ ∃ strap1 strap0 : Bool,
    b = (2 * strap1.toNat + strap0.toNat) * 0x40000000 + 0x3FFFF000

/-- No queued record shares a byte with the bytes from `a` to `a + n` (R163, R164). -/
def QueueClear (q : List QueueEntry) (a n : Nat) : Prop :=
  ∀ e ∈ q, e.addr + 32 ≤ a ∨ a + n ≤ e.addr

/-- A transaction that arrives now is taken at once: the part runs and nothing waits at the upstream port (R156). -/
def PortFree (b : Nat) (s : State) : Prop := Running b s ∧ s.tp.upstream = []

/-- A whole directive written now is taken and answered at once: the port is free, the mailbox overlaps no queued record
(R164), the outcome holder is empty and the insertion queue has a free entry (R151). -/
def DirectiveReady (b : Nat) (s : State) : Prop :=
  PortFree b s ∧ QueueClear s.tp.queue b 32 ∧ s.dd.holder = none ∧ s.tp.queue.length < 16

/-! ## The answer of a directive -/

/-- The Directive Decoder after a whole directive has been taken: all seven words latched, the marks cleared, the
directive counted, and its outcome record gone on into the queue (R148, R151). -/
def decoderAfter (d : Directive) (s : State) : DirectiveDecoder :=
  { latch := directiveWords d, marks := Vector.replicate 7 false, count := (s.dd.count + 1) % 65536, holder := none }

/-- The outcome record of a directive (section 11.3): its kind code, the outcome code, the directive count and the
detail, at control region offset 0x020. -/
def outcomeEntry (b : Nat) (d : Directive) (code detail : Nat) (s : State) : QueueEntry :=
  { addr := b + 0x20
    words := [BitVec.ofNat 32 ((kindCode d).toNat + 256 * code), BitVec.ofNat 32 ((s.dd.count + 1) % 65536),
              BitVec.ofNat 32 detail, 0, 0, 0, 0, 0]
    kind := .outcome }

/-- The state with the Directive Decoder, the insertion queue and the ports as a whole directive leaves them, and no
other block touched: the words go on to memory as written, and the outcome record stands last in the queue
(R147, R148, R151). -/
def answered (b : Nat) (d : Directive) (code detail : Nat) (s : State) : State :=
  { s with
    dd := decoderAfter d s
    tp := { s.tp with queue := s.tp.queue ++ [outcomeEntry b d code detail s]
                      outstanding := s.tp.outstanding ++ [.write b] }
    ports := { s.ports with down := s.ports.down ++ [.write b (burstWords (directiveBurst b d))] } }

/-- A frame that is assembling, if one is, is discarded and counted torn, and the Frame Reducer is otherwise `fr`
(R7, R8). -/
def abandonInto (fr : FrameReducer) : FrameReducer :=
  if fr.frame.isSome then { fr with frame := none, torn := min 65535 (fr.torn + 1) } else fr

/-- FRAME FAULT is raised for a frame that was assembling (R7, R8). -/
def abandonRaise (s : State) : ReportArbiter :=
  if s.fr.frame.isSome then s.ra.raise .frameFault { place := none, a := 0, b := 0 } else s.ra

/-! ## Figures -/

/-- `q` is round(`num` / `den`): nearest, a value halfway between two integers going to the one farther from zero
(section 0.7). -/
def IsRound (q num : Int) (den : Nat) : Prop :=
  2 * (q * den - num).natAbs ≤ den ∧ (2 * (q * den - num).natAbs = den → num.natAbs < (q * den).natAbs)

/-- The byte a write carries for an address, if it carries one: that of the beat and the lane the address lies in, when
the lane is enabled (section 10.1). -/
def writtenByte (w : WriteBurst) (a : Nat) : Option Nat :=
  if a < w.addr.toNat then none
  else
    match w.beats[(a - w.addr.toNat) / 8]? with
    | some x =>
      if x.lanes.getLsbD ((a - w.addr.toNat) % 8) then
        some (x.data.extractLsb' (8 * ((a - w.addr.toNat) % 8)) 8).toNat
      else none
    | none => none

/-- What a write does to a patch entry by the bytes it carries for the entry's field, which starts at address `a` (R120,
R127, R128): all carried, the baseline is their value; some, the entry is DORMANT without a baseline; none, no effect. -/
def judgedEntry (w : WriteBurst) (a : Nat) (e : PatchEntry) : PatchEntry :=
  match writtenByte w a, writtenByte w (a + 1) with
  | some lo, some hi => { e with baseline := some (if e.width = 8 then lo else lo + 256 * hi) }
  | some lo, none => if e.width = 8 then { e with baseline := some lo } else { e with baseline := none, state := .dormant }
  | none, some _ => if e.width = 8 then e else { e with baseline := none, state := .dormant }
  | none, none => e

/-- A byte of the word that its enables name is a byte of the record (R163, R164). -/
def Touches (e : QueueEntry) (x : WordWrite) : Prop :=
  ∃ j : Nat, j < 4 ∧ x.enables.getLsbD j = true ∧ e.addr ≤ x.addr + j ∧ x.addr + j < e.addr + 32

/-- A write that waited for `before` records waits for `after` records from the front of the queue once these words of it are
taken: to the last record that one of them overlaps, or as long as before (R164). -/
def Held (q : List QueueEntry) (words : List WordWrite) (before after : Nat) : Prop :=
  before ≤ after ∧
  (∀ (i : Nat) (e : QueueEntry), q[i]? = some e → ∀ x ∈ words, Touches e x → i + 1 ≤ after) ∧
  (after = before ∨ ∃ (i : Nat) (e : QueueEntry), q[i]? = some e ∧ (∃ x ∈ words, Touches e x) ∧ after = i + 1)

/-- A word lies in no window that a block watches for writes: not in the mailbox, the capture ring or the image window
(R158). -/
def OutsideWindows (b : Nat) (s : State) (a : Nat) : Prop :=
  (a + 4 ≤ b ∨ b + 32 ≤ a) ∧
  (∀ r, s.tp.captureRing = some r → a + 4 ≤ r.base ∨ r.base + 32 * r.slots ≤ a) ∧
  ∀ w, s.ip.window = some w → a + 4 ≤ w.base ∨ w.base + w.length ≤ a

/-- The state after a write has passed downstream with these words, no block touched (R156). -/
def passed (a : Nat) (words : List WordWrite) (s : State) : State :=
  { s with
    tp := { s.tp with outstanding := s.tp.outstanding ++ [.write a] }
    ports := { s.ports with down := s.ports.down ++ [.write a words] } }

/-- The state after a write all of whose words are taken: it passes downstream when it waits for no record, and stays at the
upstream port otherwise, no block touched (R156, R164). -/
def passedOrHeld (hold a : Nat) (words : List WordWrite) (s : State) : State :=
  if hold = 0 then passed a words s
  else { s with tp := { s.tp with
    upstream := [.write { addr := a, taken := words, todo := [], run := none, hold := hold, stall := none }] } }

/-- The write of word `n` of a capture slot at `a` alone, full, beside a word that is not written (R2). -/
def wordBurst (a n : Nat) (other data : Word) : WriteBurst :=
  { addr := BitVec.ofNat 32 (a + 8 * (n / 2))
    beats := [{ data := if n % 2 = 0 then other ++ data else data ++ other
                lanes := if n % 2 = 0 then 0x0F else 0xF0 }] }

/-! ## The invariants that every step keeps -/

/-- The insertion queue and the report ring: the queue holds at most 16 records of eight words (R161); a record in flight is
in the queue (R162); the occupancy counts the occupied marks and ATTN follows it (R139 to R142); an entry pends for an enabled kind
alone, with a repeat count of 1 to 255 (R135, R137); the tally stays in range (R133); a write waits for no more records
than the queue holds (R164); the front transaction alone is stalled, for the outcome holder exactly while that is occupied,
and for the result holder only while that is occupied (R151, R165). -/
structure QueueInv (s : State) : Prop where
  room : s.tp.queue.length ≤ 16
  records : ∀ e ∈ s.tp.queue, e.words.length = 8
  inFlight : s.tp.inFlight = true → s.tp.queue ≠ []
  occupancy : s.ra.occupancy = countMarks s.ra.marks
  attn : s.ra.attn = decide (0 < s.ra.occupancy)
  enabled : ∀ k e, s.ra.entry k = some e → s.ra.enabled k = true ∧ 1 ≤ e.repeats ∧ e.repeats ≤ 255
  tally : s.ra.tally ≤ 65535
  hold : ∀ p, Upstream.write p ∈ s.tp.upstream → p.hold ≤ s.tp.queue.length
  behind : ∀ p, Upstream.write p ∈ s.tp.upstream.tail → p.stall = none
  outcome : s.dd.holder ≠ none ↔ ∃ p rest, s.tp.upstream = .write p :: rest ∧ p.stall = some .outcome
  result : ∀ p rest, s.tp.upstream = .write p :: rest → p.stall = some .result → s.sc.holder ≠ none

/-- Two ranges, each a start and a length, share no byte. -/
def Apart (a n a' n' : Nat) : Prop := a + n ≤ a' ∨ a' + n' ≤ a

/-- The window map (R157 to R159, R113, R115): the control region is present exactly while RESET is high; every window is
aligned and inside the address space; no two share a byte; the image window is absent exactly in UNSET. -/
structure WindowInv (s : State) : Prop where
  running : s.resetLow = false → ∃ b, Running b s
  low : s.resetLow = true →
    s.tp.controlBase = none ∧ s.tp.captureRing = none ∧ s.tp.resultArea = none ∧ s.ip.window = none
  unset : s.ip.state = .unset ↔ s.ip.window = none
  capture : ∀ r, s.tp.captureRing = some r →
    r.base % 32 = 0 ∧ 16 ≤ r.slots ∧ r.slots ≤ 65536 ∧ r.base + 32 * r.slots ≤ 4294967296
  result : ∀ a, s.tp.resultArea = some a → a % 16384 = 0 ∧ a + 16384 ≤ 4294967296
  image : ∀ w, s.ip.window = some w → w.base % 64 = 0 ∧ w.length % 64 = 0 ∧ 0 < w.length ∧ w.length ≤ 65536 ∧
    w.base + w.length ≤ 4294967296
  captureControl : ∀ b r, s.tp.controlBase = some b → s.tp.captureRing = some r → Apart r.base (32 * r.slots) b 4096
  resultControl : ∀ b a, s.tp.controlBase = some b → s.tp.resultArea = some a → Apart a 16384 b 4096
  imageControl : ∀ b w, s.tp.controlBase = some b → s.ip.window = some w → Apart w.base w.length b 4096
  captureResult : ∀ r a, s.tp.captureRing = some r → s.tp.resultArea = some a → Apart r.base (32 * r.slots) a 16384
  captureImage : ∀ r w, s.tp.captureRing = some r → s.ip.window = some w →
    Apart r.base (32 * r.slots) w.base w.length
  resultImage : ∀ a w, s.tp.resultArea = some a → s.ip.window = some w → Apart a 16384 w.base w.length

/-- An entry of the patch map as MAP FIELD lets it in, within a window (R117, R118). -/
def FieldOk (w : ImageWindow) (e : PatchEntry) : Prop :=
  e.offset < w.length ∧ (e.width = 8 ∨ e.width = 16) ∧ (e.width = 16 → e.offset % 2 = 0) ∧ 4 ≤ e.scale ∧ e.scale ≤ 14 ∧
  Apart e.offset (e.width / 8) w.checksum 2

/-- The image record (R113, R117, R124): the window is absent and the map empty in UNSET; the checksum offset is even and
inside the window; at most 128 entries, in ascending order of offset and apart from one another and from the checksum word;
LIVE entries in PUBLISHED alone, each with a baseline; and the adjustment is the sum of R124 modulo 65536. -/
structure ImageInv (s : State) : Prop where
  unset : s.ip.state = .unset ↔ s.ip.window = none
  empty : s.ip.state = .unset → s.ip.map = []
  checksum : ∀ w, s.ip.window = some w → w.checksum % 2 = 0 ∧ w.checksum < w.length
  fields : ∀ w, s.ip.window = some w → ∀ e ∈ s.ip.map, FieldOk w e
  count : s.ip.map.length ≤ 128
  order : s.ip.map.Pairwise fun x y => x.offset + x.width / 8 ≤ y.offset
  dormant : s.ip.state ≠ .published → ∀ e ∈ s.ip.map, e.state = .dormant
  live : ∀ e ∈ s.ip.map, ∀ frozen, e.state = .live frozen → e.baseline ≠ none
  adjustment : (s.ip.adjustment : Int) = termSum s.ip.map % 65536

/-- The geometry, the zone list and the frame (R1): in their ranges; Z first tracks, strictly ascending from 0; and a frame
past word 5 holds a reduction made under this geometry (R9). -/
structure GeometryInv (fr : FrameReducer) : Prop where
  heads : 1 ≤ fr.heads ∧ fr.heads ≤ 16
  zoneCount : 1 ≤ fr.zoneCount ∧ fr.zoneCount ≤ 32
  wpr : 64 ≤ fr.wpr ∧ fr.wpr ≤ 1023
  gapLimit : 1 ≤ fr.gapLimit ∧ fr.gapLimit ≤ 63
  zones : fr.zones.length = fr.zoneCount ∧ fr.zones.headD 1 = 0 ∧ fr.zones.Pairwise (· < ·) ∧
    ∀ t ∈ fr.zones, t ≤ 16777215
  counts : fr.torn ≤ 65535 ∧ fr.badWedge ≤ 65535
  frame : ∀ f, fr.frame = some f → 1 ≤ f.expects ∧ f.expects ≤ 7 ∧
    (6 ≤ f.expects → ∃ r, f.reduction = some r ∧ (r.grade = .foreign ↔ fr.heads ≤ f.head.val) ∧ -512 ≤ r.offset ∧
      r.offset ≤ 511)

/-- The follow records (R24 to R26): every setting and count in its range; the active head, below H, is the one head in
ACQUIRING, SETTLING, FOLLOWING or SLIPPED, and the last-frame record is its own. -/
structure FollowInv (heads wpr : Nat) (fm : FollowMonitor) : Prop where
  settle : 1 ≤ fm.settle ∧ fm.settle ≤ 255
  inhibit : 1 ≤ fm.inhibit ∧ fm.inhibit ≤ 255
  acquireLimit : 16 ≤ fm.acquireLimit ∧ fm.acquireLimit ≤ 4095
  records : ∀ h, (fm.record h).run ≤ 255 ∧ (fm.record h).acquire ≤ 4095 ∧ (fm.record h).floor ≤ 4095 ∧
    (fm.record h).signal ≤ 65535 ∧ 1 ≤ (fm.record h).window ∧ (fm.record h).window ≤ 511
  active : ∀ a, fm.active = some a → a.val < heads ∧ fm.last.head = some a
  absent : fm.active = none → fm.last = { head := none, track := none, wedge := none }
  states : ∀ h, fm.active = some h ↔ (fm.record h).state ≠ .unseen ∧ (fm.record h).state ≠ .dormant
  wedge : ∀ w, fm.last.wedge = some w → w < wpr

/-- The sweep (R76, R77, R86, R89, R99): operands and counts in their ranges; while a sweep runs its heads and its zone are
configured and both windows are present; a wait or a measurement is short of its deadline, a measurement short of its
quota; pmin and pmax are present together, exactly when weight was seen. -/
structure SweepInv (s : State) : Prop where
  quota : 1 ≤ s.sc.quota ∧ s.sc.quota ≤ 4096
  deadline : 1 ≤ s.sc.deadline ∧ s.sc.deadline ≤ 255
  limits : s.sc.limit ≤ 511 ∧ s.sc.spreadLimit ≤ 511 ∧ s.sc.jogThreshold ≤ 65535
  counts : s.sc.passNumber ≤ 65535 ∧ s.sc.passesCompleted ≤ 65535 ∧ s.sc.revolutions ≤ 255
  runs : s.sc.state ≠ .idle → s.sc.firstHead.val < s.fr.heads ∧ s.sc.lastHead.val < s.fr.heads ∧
    s.sc.currentHead.val < s.fr.heads ∧ s.sc.zone.val < s.fr.zoneCount ∧ s.tp.captureRing ≠ none ∧ s.tp.resultArea ≠ none
  waits : s.sc.state = .awaitHead ∨ s.sc.state = .measuring → s.sc.revolutions < s.sc.deadline
  measures : s.sc.state = .measuring → 1 ≤ s.sc.acc.n ∧ s.sc.acc.n < s.sc.quota
  extremes : (s.sc.acc.least ≠ none ↔ 0 < s.sc.acc.sumW) ∧ (s.sc.acc.greatest ≠ none ↔ 0 < s.sc.acc.sumW)
  totals : s.sc.acc.missed ≤ 65535 ∧ s.sc.acc.slips ≤ 65535

/-- The timebase, the spindle and the timer (R44 to R58): every setting and counter in its range; supervision counts in
EXTERNAL alone; the spindle is judged, and an index time recorded, in EXTERNAL with P set alone. -/
structure TimingInv (t : SpindleMonitor) : Prop where
  prescale : t.prescale ≤ 10 ∧ t.prescaleCounter < 2 ^ t.prescale
  loss : t.lossCount < 24 ∧ (t.timebase ≠ .external → t.lossCount = 0)
  nominal : t.nominal = 0 ∨ (256 ≤ t.nominal ∧ t.nominal ≤ 8388607)
  tolerance : 1 ≤ t.tolerance ∧ t.tolerance ≤ 255
  interval : t.interval ≤ 16777215
  timer : 1 ≤ t.timerPeriod ∧ t.timerPeriod ≤ 16777215 ∧ t.timerCounter ≤ t.timerPeriod ∧
    (t.timerMode = .off → t.timerCounter = 0)
  spindle : t.spindle ≠ .unknown → t.timebase = .external ∧ t.nominal ≠ 0
  lastIndex : t.lastIndex = true → t.timebase = .external ∧ t.nominal ≠ 0

/-- The invariants of the Frame Reducer, the Follow Monitor, the Sweep Controller and the Timebase and Spindle Monitor,
which lean on one another. -/
structure BenchInv (s : State) : Prop where
  geometry : GeometryInv s.fr
  follow : FollowInv s.fr.heads s.fr.wpr s.fm
  sweep : SweepInv s
  timing : TimingInv s.tsm

end Sys2Proof.Machine
end

