-- ==== Sys2Proof/Certificates/Slice0/Obligations.lean ====
section
/-! DEFINITION. The statements about the model. Each docstring names the rules of the manual it formalises; a statement that
rests on a choice of the model says so and names its assumption log. -/

open Sys2Proof Sys2Proof.Machine

/-! ## One step (assumption logs 8 and 25) -/

/-- The queue of commands: the one at the front runs on the state with the queue's rest. It rests on assumption log 25 (the
model's choice). -/
def Obligations.StepRunsFrontCommand : Prop :=
  ∀ (c : Instr) (rest : List Instr) (s : State), s.pending = c :: rest → step s = exec c { s with pending := rest }

/-! ## The directives (chapter 9): what each does to its owner's block, and the outcome it is answered with -/

/-- R59. SET TIMER in every sweep state: refused BAD_VALUE for mode code 3, and otherwise taken with the period clamped. It
rests on assumption logs 3 and 12 (the model's choices). -/
def Obligations.SetTimerSetsTheTimerRecord : Prop :=
  ∀ (b : Nat) (s : State) (o : TimerOperands), DirectiveReady b s →
    exec (.setTimer o) s = .next
      (if o.mode = 3 then answered b (.setTimer o) 5 1 s
      else
        let p := max 1 (min 16777215 o.period.toNat)
        let code := if o.period.toNat = p then 1 else 2
        let mask := if o.period.toNat = p then 0 else 4
        { answered b (.setTimer o) code mask s with
          tsm := { s.tsm with
            timerMode := if o.mode = 0 then .off else if o.mode = 1 then .oneShot else .periodic
            timerPeriod := p
            timerCounter := 0 } })

/-- R46, R47, R136. SET TIMEBASE: refused BUSY while a sweep runs, BAD_VALUE for another source, and otherwise taken with the
prescale clamped; the timebase restarts and the pending spindle reports are cleared. It rests on assumption logs 3 and 12
(the model's choices). -/
def Obligations.SetTimebaseRestartsTheTimebase : Prop :=
  ∀ (b : Nat) (s : State) (o : TimebaseOperands), DirectiveReady b s →
    exec (.setTimebase o) s = .next
      (if s.sc.state ≠ .idle then answered b (.setTimebase o) 6 0 s
      else if 2 ≤ o.source.toNat then answered b (.setTimebase o) 5 1 s
      else
        let code := if o.prescale.toNat ≤ 10 then 1 else 2
        let mask := if o.prescale.toNat ≤ 10 then 0 else 4
        { answered b (.setTimebase o) code mask s with
          tsm := { s.tsm with
            timebase := if o.source = 1 then .external else .internal
            prescale := min 10 o.prescale.toNat
            prescaleCounter := 0
            lossCount := 0
            timerCounter := 0
            lastIndex := false
            interval := 0
            lastPeriod := none
            spindle := .unknown }
          ra := { s.ra with
            pend := (s.ra.pend.set ReportKind.spindleFault.index none).set ReportKind.spindleReady.index none } })

/-- R56, R136. SET INDEX: refused BUSY while a sweep runs, BAD_VALUE for another edge, and otherwise taken, a P of 0 not
clamped; the index record is cleared, the spindle UNKNOWN, and the pending spindle reports cleared. It rests on assumption
logs 3 and 12 (the model's choices). -/
def Obligations.SetIndexClearsTheIndexRecord : Prop :=
  ∀ (b : Nat) (s : State) (o : IndexOperands), DirectiveReady b s →
    exec (.setIndex o) s = .next
      (if s.sc.state ≠ .idle then answered b (.setIndex o) 6 0 s
      else if 2 ≤ o.edge.toNat then answered b (.setIndex o) 5 1 s
      else
        let p := if o.nominal.toNat = 0 then 0 else max 256 (min 8388607 o.nominal.toNat)
        let t := max 1 (min 255 o.tolerance.toNat)
        let mask := (if o.nominal.toNat = p then 0 else 4) + (if o.tolerance.toNat = t then 0 else 8)
        { answered b (.setIndex o) (if mask = 0 then 1 else 2) mask s with
          tsm := { s.tsm with
            edge := if o.edge = 1 then .rising else .falling
            nominal := p
            tolerance := t
            lastIndex := false
            lastPeriod := none
            interval := 0
            spindle := .unknown }
          ra := { s.ra with
            pend := (s.ra.pend.set ReportKind.spindleFault.index none).set ReportKind.spindleReady.index none } })

/-- R40. SET FOLLOW: refused BUSY while a sweep runs, and otherwise taken with the three settings clamped. It rests on
assumption logs 3 and 12 (the model's choices). -/
def Obligations.SetFollowSetsTheSharedSettings : Prop :=
  ∀ (b : Nat) (s : State) (o : FollowOperands), DirectiveReady b s →
    exec (.setFollow o) s = .next
      (if s.sc.state ≠ .idle then answered b (.setFollow o) 6 0 s
      else
        let settle := max 1 (min 255 o.settle.toNat)
        let inhibit := max 1 (min 255 o.inhibit.toNat)
        let limit := max 16 (min 4095 o.limit.toNat)
        let mask := (if o.settle.toNat = settle then 0 else 2) + (if o.inhibit.toNat = inhibit then 0 else 4)
          + (if o.limit.toNat = limit then 0 else 8)
        { answered b (.setFollow o) (if mask = 0 then 1 else 2) mask s with
          fm := { s.fm with settle := settle, inhibit := inhibit, acquireLimit := limit } })

/-- R39. SET HEAD: refused BUSY while a sweep runs, BAD_VALUE for an operand that is neither ALL nor a head below H, and
otherwise taken with F, S and W clamped; the named records alone change, and of them F, S and W alone. It rests on
assumption logs 3 and 12 (the model's choices). -/
def Obligations.SetHeadSetsFloorsAndWindow : Prop :=
  ∀ (b : Nat) (s : State) (o : HeadOperands), DirectiveReady b s → s.fr.heads ≤ 16 →
    ∃ t, exec (.setHead o) s = .next t ∧
      if s.sc.state ≠ .idle then t = answered b (.setHead o) 6 0 s
      else if o.head ≠ 0xFF ∧ s.fr.heads ≤ o.head.toNat then t = answered b (.setHead o) 5 1 s
      else
        let f := min 4095 o.floor.toNat
        let g := min 65535 o.signal.toNat
        let w := max 1 (min 511 o.window.toNat)
        let mask := (if o.floor.toNat = f then 0 else 4) + (if o.signal.toNat = g then 0 else 8)
          + (if o.window.toNat = w then 0 else 16)
        { t with fm := s.fm } = answered b (.setHead o) (if mask = 0 then 1 else 2) mask s ∧
        { t.fm with records := s.fm.records } = s.fm ∧
        ∀ h : Fin 16, t.fm.record h =
          if o.head = 0xFF ∨ o.head.toNat = h.val then { s.fm.record h with floor := f, signal := g, window := w }
          else s.fm.record h

/-- R41. CLEAR HISTORY in every sweep state: refused BAD_VALUE for an operand that is neither ALL nor a head below H, and
otherwise taken; the history sets of the named heads are emptied and nothing else of the records changes. It rests on
assumption logs 3 and 12 (the model's choices). -/
def Obligations.ClearHistoryEmptiesHistorySets : Prop :=
  ∀ (b : Nat) (s : State) (head : BitVec 8), DirectiveReady b s → s.fr.heads ≤ 16 →
    ∃ t, exec (.clearHistory head) s = .next t ∧
      if head ≠ 0xFF ∧ s.fr.heads ≤ head.toNat then t = answered b (.clearHistory head) 5 1 s
      else
        { t with fm := s.fm } = answered b (.clearHistory head) 1 0 s ∧
        { t.fm with records := s.fm.records } = s.fm ∧
        ∀ h : Fin 16, t.fm.record h =
          if head = 0xFF ∨ head.toNat = h.val then
            { s.fm.record h with
              history := { acquiring := false, settling := false, following := false, slipped := false } }
          else s.fm.record h

/-- R42, R72. CLEAR HEAD: refused BUSY while a sweep runs, BAD_VALUE for an operand that is neither ALL nor a head below H,
and otherwise taken: the named records return to UNSEEN with F, S and W kept, the named heads' cells are emptied, and an
active head that is named becomes absent with the last-frame record. It rests on assumption logs 3 and 12 (the model's
choices). -/
def Obligations.ClearHeadEmptiesRecordsAndCells : Prop :=
  ∀ (b : Nat) (s : State) (head : BitVec 8), DirectiveReady b s → s.fr.heads ≤ 16 →
    ∃ t, exec (.clearHead head) s = .next t ∧
      if s.sc.state ≠ .idle then t = answered b (.clearHead head) 6 0 s
      else if head ≠ 0xFF ∧ s.fr.heads ≤ head.toNat then t = answered b (.clearHead head) 5 1 s
      else
        { t with fm := s.fm, table := s.table } = answered b (.clearHead head) 1 0 s ∧
        (t.fm.settle = s.fm.settle ∧ t.fm.inhibit = s.fm.inhibit ∧ t.fm.acquireLimit = s.fm.acquireLimit) ∧
        (∀ h : Fin 16, t.fm.record h =
          if head = 0xFF ∨ head.toNat = h.val then
            { s.fm.record h with
              state := .unseen, run := 0, acquire := 0, noLockRaised := false
              history := { acquiring := false, settling := false, following := false, slipped := false } }
          else s.fm.record h) ∧
        (if ∃ a, s.fm.active = some a ∧ (head = 0xFF ∨ head.toNat = a.val) then
          t.fm.active = none ∧ t.fm.last = { head := none, track := none, wedge := none }
        else t.fm.active = s.fm.active ∧ t.fm.last = s.fm.last) ∧
        ∀ c : Fin 512, t.table.cell c =
          if head = 0xFF ∨ head.toNat = c.val / 32 then
            { centre := none, jog := none, outcome := .untaken, kind := .centre, unread := false, passes := 0 }
          else s.table.cell c

/-- R137. SET REPORTS in every sweep state: refused BAD_VALUE when the mask enables a kind outside the eleven, and otherwise
taken: the mask is replaced, the entries of the kinds it disables are cleared, and no other entry changes. It rests on
assumption logs 3 and 12 (the model's choices). -/
def Obligations.SetReportsReplacesTheMask : Prop :=
  ∀ (b : Nat) (s : State) (m : Word), DirectiveReady b s →
    ∃ t, exec (.setReports m) s = .next t ∧
      if m.toNat % 2 = 1 ∨ 4096 ≤ m.toNat then t = answered b (.setReports m) 5 1 s
      else
        { t with ra := s.ra } = answered b (.setReports m) 1 0 s ∧
        { t.ra with mask := s.ra.mask, pend := s.ra.pend } = s.ra ∧
        ∀ k : ReportKind, t.ra.enabled k = m.getLsbD k.code ∧
          t.ra.entry k = if m.getLsbD k.code then s.ra.entry k else none

/-- R7, R22, R43. SET GEOMETRY: refused BUSY while a sweep runs, BAD_VALUE for H or Z outside its range or for added zones that
would start above the greatest track, and otherwise taken: the zone list is cut or extended by one track a zone, a frame
that is assembling is abandoned, every head becomes UNSEEN, and the active head becomes absent. It rests on assumption logs
3 and 12 (the model's choices). -/
def Obligations.SetGeometryResizesZonesAndUnseesHeads : Prop :=
  ∀ (b : Nat) (s : State) (o : GeometryOperands), DirectiveReady b s → s.fr.zones.length = s.fr.zoneCount →
    ∃ t, exec (.setGeometry o) s = .next t ∧
      if s.sc.state ≠ .idle then t = answered b (.setGeometry o) 6 0 s
      else if o.heads.toNat < 1 ∨ 16 < o.heads.toNat then t = answered b (.setGeometry o) 5 1 s
      else if o.zones.toNat < 1 ∨ 32 < o.zones.toNat ∨ (s.fr.zoneCount < o.zones.toNat ∧
          16777215 < s.fr.zones.getLastD 0 + (o.zones.toNat - s.fr.zoneCount)) then
        t = answered b (.setGeometry o) 5 2 s
      else
        let wpr := max 64 (min 1023 o.wpr.toNat)
        let gap := max 1 (min 63 o.gapLimit.toNat)
        let mask := (if o.wpr.toNat = wpr then 0 else 8) + (if o.gapLimit.toNat = gap then 0 else 16)
        { t with fr := s.fr, fm := s.fm, ra := s.ra } =
          answered b (.setGeometry o) (if mask = 0 then 1 else 2) mask s ∧
        t.ra = abandonRaise s ∧
        { t.fr with zones := s.fr.zones } = abandonInto { s.fr with
          heads := o.heads.toNat, zoneCount := o.zones.toNat, wpr := wpr, gapLimit := gap } ∧
        (t.fr.zones.length = o.zones.toNat ∧ ∀ z : Nat, z < o.zones.toNat → t.fr.zones.getD z 0 =
          if z < s.fr.zoneCount then s.fr.zones.getD z 0 else s.fr.zones.getLastD 0 + (z + 1 - s.fr.zoneCount)) ∧
        (t.fm = { s.fm with
          records := t.fm.records, active := none, last := { head := none, track := none, wedge := none } }) ∧
        ∀ h : Fin 16, t.fm.record h =
          { s.fm.record h with state := .unseen, run := 0, acquire := 0, noLockRaised := false }

/-- R7, R23. SET ZONES: refused BUSY while a sweep runs; refused BAD_VALUE when the zones reach past Z, when zone 0 would not
start at track 0, or when the whole list that would result is not strictly ascending, an entry that is not replaced taking
part; when the count lies outside 1 to 6; and when a given first track is too great, naming the first such. Otherwise the
named first tracks are replaced, every other one stays, and a frame that is assembling is abandoned. It rests on assumption
logs 3, 12 and 19 (the model's choices). -/
def Obligations.SetZonesReplacesFirstTracks : Prop :=
  ∀ (b : Nat) (s : State) (o : ZoneOperands), DirectiveReady b s → s.fr.zones.length = s.fr.zoneCount →
    let first := o.first.toNat
    let count := o.count.toNat
    let after := fun z : Nat => if h : first ≤ z ∧ z < first + count ∧ z - first < 6 then o.tracks[z - first].toNat
      else s.fr.zones.getD z 0
    let misplaced := s.fr.zoneCount < first + count ∨ (first = 0 ∧ 1 ≤ count ∧ o.tracks[0].toNat ≠ 0) ∨
      ¬ ∀ z : Nat, z + 1 < s.fr.zoneCount → after z < after (z + 1)
    let tooGreat := fun i : Fin 6 => i.val < count ∧ 16777215 < o.tracks[i].toNat
    (s.sc.state ≠ .idle → exec (.setZones o) s = .next (answered b (.setZones o) 6 0 s)) ∧
    (s.sc.state = .idle → misplaced → exec (.setZones o) s = .next (answered b (.setZones o) 5 1 s)) ∧
    (s.sc.state = .idle → ¬ misplaced → count < 1 ∨ 6 < count →
      exec (.setZones o) s = .next (answered b (.setZones o) 5 2 s)) ∧
    (s.sc.state = .idle → ¬ misplaced → 1 ≤ count → count ≤ 6 →
      (∀ i : Fin 6, tooGreat i → (∀ j : Fin 6, j < i → ¬ tooGreat j) →
        exec (.setZones o) s = .next (answered b (.setZones o) 5 (3 + i.val) s)) ∧
      ((∀ i : Fin 6, ¬ tooGreat i) → ∃ t, exec (.setZones o) s = .next t ∧
        { t with fr := s.fr, ra := s.ra } = answered b (.setZones o) 1 0 s ∧ t.ra = abandonRaise s ∧
        { t.fr with zones := s.fr.zones } = abandonInto s.fr ∧
        t.fr.zones.length = s.fr.zoneCount ∧ ∀ z : Nat, z < s.fr.zoneCount → t.fr.zones.getD z 0 = after z))

/-- R71, R159, R160. SET WINDOWS: refused BUSY while a sweep runs or a result record waits, BAD_VALUE for a wrong base, OVERLAP
for windows that would share a byte, and otherwise taken with the slot count clamped: the windows are placed, a frame that
is assembling is abandoned, and the unread flags are cleared when the result area moves. It rests on assumption logs 3 and 12 (the model's choices). -/
def Obligations.SetWindowsPlacesTheWindows : Prop :=
  ∀ (b : Nat) (s : State) (o : WindowOperands), DirectiveReady b s → (s.ip.state = .unset → s.ip.window = none) →
    ∃ t, exec (.setWindows o) s = .next t ∧
      (let cb := o.captureBase.toNat
       let rb := o.resultBase.toNat
       let slots := max 16 (min 65536 o.slotCount.toNat)
       let meets := fun a n a' n' : Nat => a < a' + n' ∧ a' < a + n
       let meetsImage := fun a n : Nat => ∃ w, s.ip.window = some w ∧ meets a n w.base w.length
       if s.sc.state ≠ .idle ∨ s.sc.holder ≠ none then t = answered b (.setWindows o) 6 0 s
       else if cb % 32 ≠ 0 ∨ 4294967296 < cb + 32 * slots then t = answered b (.setWindows o) 5 1 s
       else if rb % 16384 ≠ 0 then t = answered b (.setWindows o) 5 3 s
       else if meets cb (32 * slots) rb 16384 ∨ meets cb (32 * slots) b 4096 ∨ meetsImage cb (32 * slots) then
         t = answered b (.setWindows o) 7 1 s
       else if meets rb 16384 b 4096 ∨ meetsImage rb 16384 then t = answered b (.setWindows o) 7 3 s
       else
         let clamped := o.slotCount.toNat ≠ slots
         let a := answered b (.setWindows o) (if clamped then 2 else 1) (if clamped then 4 else 0) s
         t = { a with
           tp := { a.tp with captureRing := some { base := cb, slots := slots }, resultArea := some rb }
           fr := abandonInto s.fr
           ra := abandonRaise s
           table := t.table } ∧
         ∀ c : Fin 512, t.table.cell c =
           if s.tp.resultArea = some rb then s.table.cell c else { s.table.cell c with unread := false })

/-- R77 to R82. SWEEP: refused BUSY while a sweep runs, STATE without both windows, BAD_VALUE naming the lowest wrong operand, and
otherwise taken: the operands are loaded as clamped, the working fields start afresh, the reports of an earlier sweep are
cleared, and ARMED is entered; with trigger NOW the first pass starts at once, with its HEAD REQUEST. It rests on
assumption logs 3 and 12 (the model's choices). -/
def Obligations.SweepStartsASweep : Prop :=
  ∀ (b : Nat) (s : State) (o : SweepOperands), DirectiveReady b s → s.fr.heads ≤ 16 → s.fr.zoneCount ≤ 32 →
    exec (.sweep o) s = .next
      (if s.sc.state ≠ .idle then answered b (.sweep o) 6 0 s
      else if s.tp.captureRing = none ∨ s.tp.resultArea = none then answered b (.sweep o) 8 0 s
      else if 2 ≤ o.kind.toNat then answered b (.sweep o) 5 1 s
      else if s.fr.heads ≤ o.firstHead.toNat then answered b (.sweep o) 5 2 s
      else if s.fr.heads ≤ o.lastHead.toNat then answered b (.sweep o) 5 3 s
      else if s.fr.zoneCount ≤ o.zone.toNat then answered b (.sweep o) 5 4 s
      else if 2 ≤ o.passes.toNat then answered b (.sweep o) 5 7 s
      else if o.trigger = 3 then answered b (.sweep o) 5 8 s
      else
        let quota := max 1 (min 4096 o.quota.toNat)
        let deadline := max 1 (min 255 o.deadline.toNat)
        let mask := (if o.quota.toNat = quota then 0 else 32) + (if o.deadline.toNat = deadline then 0 else 64)
          + (if o.limit.toNat ≤ 511 then 0 else 1024) + (if o.spreadLimit.toNat ≤ 511 then 0 else 2048)
        let loaded : SweepController := { s.sc with
          state := .armed
          kind := if o.kind = 1 then .jog else .centre
          firstHead := Fin.ofNat 16 o.firstHead.toNat
          lastHead := Fin.ofNat 16 o.lastHead.toNat
          zone := Fin.ofNat 32 o.zone.toNat
          quota := quota
          deadline := deadline
          passes := if o.passes = 1 then .continuous else .onePass
          trigger := if o.trigger = 0 then .now else if o.trigger = 1 then .index else .timer
          atSpeed := o.atSpeed
          limit := min 511 o.limit.toNat
          spreadLimit := min 511 o.spreadLimit.toNat
          jogThreshold := o.jogThreshold.toNat
          currentHead := Fin.ofNat 16 o.firstHead.toNat
          passNumber := 0
          passesCompleted := 0
          revolutions := 0 }
        let cleared : ReportArbiter := { s.ra with
          pend := ((s.ra.pend.set ReportKind.headRequest.index none).set ReportKind.cellClosed.index none).set
            ReportKind.sweepDone.index none }
        let a := answered b (.sweep o) (if mask = 0 then 1 else 2) mask s
        if o.trigger = 0 then
          { a with
            sc := { loaded with state := .awaitHead, passNumber := 1 }
            ra := cleared.raise .headRequest
              { place := some (Fin.ofNat 16 o.firstHead.toNat, Fin.ofNat 32 o.zone.toNat), a := 0, b := 0 } }
        else { a with sc := loaded, ra := cleared })

/-- R92. HALT is taken in every sweep state: in IDLE it changes nothing else, and otherwise the Sweep Controller enters IDLE,
all else of the sweep record, the accumulator and the result holder kept, and SWEEP DONE is raised with reason HALTED and
the passes completed. No cell is touched. It rests on assumption logs 3 and 12 (the model's choices). -/
def Obligations.HaltEndsTheSweep : Prop :=
  ∀ (b : Nat) (s : State), DirectiveReady b s →
    exec .halt s = .next
      (if s.sc.state = .idle then answered b .halt 1 0 s
      else { answered b .halt 1 0 s with
        sc := { s.sc with state := .idle }
        ra := s.ra.raise .sweepDone { place := none, a := 2, b := s.sc.passesCompleted } })

/-- R115. SET IMAGE in every sweep state: refused STATE while PUBLISHED, BAD_VALUE naming the lowest wrong operand, OVERLAP with
the control region, the capture ring or the result area, and otherwise taken: LOADING with an empty map and Δ = 0. It rests
on assumption logs 3 and 12 (the model's choices). -/
def Obligations.SetImageOpensTheWindow : Prop :=
  ∀ (b : Nat) (s : State) (o : ImageOperands), DirectiveReady b s →
    exec (.setImage o) s = .next
      (let base := o.base.toNat
       let n := o.length.toNat
       let c := o.checksum.toNat
       let meets := fun a' n' : Nat => decide (base < a' + n' ∧ a' < base + n)
       if s.ip.state = .published then answered b (.setImage o) 8 0 s
       else if base % 64 ≠ 0 ∨ 4294967296 < base + n then answered b (.setImage o) 5 1 s
       else if n = 0 ∨ n % 64 ≠ 0 ∨ 65536 < n ∨ n ≤ c then answered b (.setImage o) 5 2 s
       else if c % 2 ≠ 0 then answered b (.setImage o) 5 3 s
       else if meets b 4096 ∨ s.tp.captureRing.any (fun r => meets r.base (32 * r.slots)) ∨
          s.tp.resultArea.any (fun a => meets a 16384) then answered b (.setImage o) 7 1 s
       else { answered b (.setImage o) 1 0 s with
          ip := { state := .loading, window := some { base := base, length := n, checksum := c }, adjustment := 0, map := [] } })

/-- R117, R118. MAP FIELD in every sweep state: refused STATE in UNSET and in PUBLISHED; with the window of LOADING, BAD_VALUE
naming the lowest wrong operand, OVERLAP with an entry or the checksum word, FULL with 128 entries, and otherwise taken: an
entry without a baseline, DORMANT, joins the map, every other entry stays, and a map in ascending order of offset stays in
that order. It rests on assumption logs 3 and 12 (the model's choices). -/
def Obligations.MapFieldPlacesAnEntry : Prop :=
  ∀ (b : Nat) (s : State) (o : FieldOperands), DirectiveReady b s → s.fr.heads ≤ 16 → s.fr.zoneCount ≤ 32 →
    (s.ip.state ≠ .loading → exec (.mapField o) s = .next (answered b (.mapField o) 8 0 s)) ∧
    ∀ w : ImageWindow, s.ip.state = .loading → s.ip.window = some w → ∃ t, exec (.mapField o) s = .next t ∧
      (let off := o.offset.toNat
       let width := o.width.toNat
       let meets := fun off' width' : Nat => off < off' + width' / 8 ∧ off' < off + width / 8
       if w.length ≤ off ∨ (width = 16 ∧ off % 2 = 1) then t = answered b (.mapField o) 5 1 s
       else if width ≠ 8 ∧ width ≠ 16 then t = answered b (.mapField o) 5 2 s
       else if 3 ≤ o.encoding.toNat then t = answered b (.mapField o) 5 3 s
       else if o.scale.toNat < 4 ∨ 14 < o.scale.toNat then t = answered b (.mapField o) 5 4 s
       else if s.fr.heads ≤ o.head.toNat then t = answered b (.mapField o) 5 5 s
       else if s.fr.zoneCount ≤ o.zone.toNat then t = answered b (.mapField o) 5 6 s
       else if 2 ≤ o.quantity.toNat then t = answered b (.mapField o) 5 7 s
       else if meets w.checksum 16 ∨ ∃ e ∈ s.ip.map, meets e.offset e.width then t = answered b (.mapField o) 7 1 s
       else if 128 ≤ s.ip.map.length then t = answered b (.mapField o) 9 0 s
       else
         let entry : PatchEntry :=
           { offset := off
             width := width
             encoding := if o.encoding = 0 then .twos else if o.encoding = 1 then .offset else .signMag
             scale := o.scale.toNat
             head := Fin.ofNat 16 o.head.toNat
             zone := Fin.ofNat 32 o.zone.toNat
             quantity := if o.quantity = 0 then .centre else .jog
             baseline := none
             state := .dormant }
         { t with ip := s.ip } = answered b (.mapField o) 1 0 s ∧ { t.ip with map := s.ip.map } = s.ip ∧
         t.ip.map.Perm (entry :: s.ip.map) ∧
         (s.ip.map.Pairwise (fun x y => x.offset < y.offset) → (∀ e ∈ s.ip.map, e.width = 8 ∨ e.width = 16) →
           t.ip.map.Pairwise (fun x y => x.offset < y.offset)))

/-- R119. CLEAR MAP: refused STATE while PUBLISHED, and otherwise taken whatever the sweep state: the map is emptied, and the
image state, the window and Δ are kept; with an empty map it has no effect beyond its outcome record. It rests on
assumption logs 3 and 12 (the model's choices). -/
def Obligations.ClearMapEmptiesTheMap : Prop :=
  ∀ (b : Nat) (s : State), DirectiveReady b s →
    exec .clearMap s = .next
      (if s.ip.state = .published then answered b .clearMap 8 0 s
      else { answered b .clearMap 1 0 s with ip := { s.ip with map := [] } }) ∧
    (s.ip.state ≠ .published → s.ip.map = [] → exec .clearMap s = .next (answered b .clearMap 1 0 s))

/-- R74, R114, R123, R124. PUBLISH in every sweep state: refused STATE unless LOADING, and otherwise taken: an entry with a baseline whose
source cell holds its quantity becomes LIVE with the encoding frozen, every other entry is DORMANT, Δ is the sum of R124,
and the outcome detail carries the LIVE count and the saturated count. The source of an entry is the committed centre or the
committed jog, by its quantity, of cell 32 × head + zone (R63, R74). The sum of R124 is, over the LIVE entries, baseline less
frozen value, 256 times over for a field of 8 bits at an odd offset (R114). It rests on assumption logs 3 and 12 (the model's
choices). -/
def Obligations.PublishFreezesTheMap : Prop :=
  (∀ (b : Nat) (s : State), DirectiveReady b s →
    (s.ip.state ≠ .loading → exec .publish s = .next (answered b .publish 8 0 s)) ∧
    (s.ip.state = .loading → ∃ t live saturated,
      exec .publish s = .next t ∧
      { t with ip := s.ip } = answered b .publish 1 (live + 65536 * saturated) s ∧
      t.ip.state = .published ∧ t.ip.window = s.ip.window ∧ t.ip.map.length = s.ip.map.length ∧
      (t.ip.adjustment : Int) = termSum t.ip.map % 65536 ∧
      live = t.ip.map.countP PatchEntry.isLive ∧
      saturated = (List.range s.ip.map.length).countP (fun i => match s.ip.map[i]? with
        | some e => match e.baseline, sourceValue s.table e with
          | some _, some v => (encodeFigure e v).2
          | _, _ => false
        | none => false) ∧
      ∀ i : Nat, t.ip.map[i]? = (s.ip.map[i]?).map fun e =>
        { e with state := match e.baseline, sourceValue s.table e with
          | some _, some v => .live (encodeFigure e v).1
          | _, _ => .dormant })) ∧
  (∀ (t : AlignmentTable) (e : PatchEntry) (c : Fin 512), c.val = 32 * e.head.val + e.zone.val →
    sourceValue t e = match e.quantity with
      | .centre => (t.cell c).centre
      | .jog => (t.cell c).jog) ∧
  ∀ m : List PatchEntry, termSum m = (m.map fun e => match e.state with
    | .live frozen => (if e.width = 8 ∧ e.offset % 2 = 1 then 256 else 1) * (((e.baseline.getD 0 : Nat) : Int) - frozen)
    | .dormant => 0).sum

/-- R129. RELEASE in every sweep state: refused STATE unless PUBLISHED, and otherwise taken: every entry DORMANT with its
baseline kept, Δ = 0, and LOADING. It rests on assumption logs 3 and 12 (the model's choices). -/
def Obligations.ReleaseReturnsToLoading : Prop :=
  ∀ (b : Nat) (s : State), DirectiveReady b s →
    exec .release s = .next
      (if s.ip.state ≠ .published then answered b .release 8 0 s
      else { answered b .release 1 0 s with
        ip := { s.ip with
          state := .loading, adjustment := 0, map := s.ip.map.map fun e => { e with state := .dormant } } })

/-- R148, R149, R155, R165. A go word written alone while the part is ready: with some of words 0 to 6 unmarked the directive is
refused INCOMPLETE naming them; with all marked and a kind code outside the catalogue it is refused UNKNOWN_KIND; either way
the marks are cleared, the directive is counted and answered, and no other block changes. With all marked and a directive of
the catalogue in the latch, written in whatever writes, it does what that directive written whole does, and the latch stays.
Written while the insertion queue is full it is taken in the same way, its outcome record waits in the outcome holder, and
its write is stalled. It rests on assumption logs 3 and 12 (the model's choices). -/
def Obligations.GoWordRefusesIncompleteAndUnknown : Prop :=
  (∀ (b : Nat) (s : State) (go : Word) (code : BitVec 8) (detail : Nat), DirectiveReady b s →
    detail = (if s.dd.marks[0] then 0 else 1) + (if s.dd.marks[1] then 0 else 2) + (if s.dd.marks[2] then 0 else 4)
      + (if s.dd.marks[3] then 0 else 8) + (if s.dd.marks[4] then 0 else 16) + (if s.dd.marks[5] then 0 else 32)
      + (if s.dd.marks[6] then 0 else 64) →
    code = s.dd.latch[0].extractLsb' 0 8 →
    (detail ≠ 0 ∨ code ∉ [0x01#8, 0x02#8, 0x03#8, 0x04#8, 0x05#8, 0x06#8, 0x07#8, 0x08#8, 0x09#8, 0x10#8, 0x11#8, 0x12#8,
      0x13#8, 0x20#8, 0x21#8, 0x22#8, 0x23#8, 0x24#8]) →
    exec (.unknownKind go) s = .next { s with
      dd := { s.dd with marks := Vector.replicate 7 false, count := (s.dd.count + 1) % 65536 }
      tp := { s.tp with
        queue := s.tp.queue ++ [{ addr := b + 0x20
                                  words := [BitVec.ofNat 32 ((if s.dd.marks[0] then code.toNat else 0)
                                      + 256 * (if detail ≠ 0 then 3 else 4)),
                                    BitVec.ofNat 32 ((s.dd.count + 1) % 65536), BitVec.ofNat 32 detail, 0, 0, 0, 0, 0]
                                  kind := .outcome }]
        outstanding := s.tp.outstanding ++ [.write (b + 24)] }
      ports := { s.ports with down := s.ports.down ++ [.write (b + 24) (burstWords (goBurst b go))] } }) ∧
  (∀ (b : Nat) (s : State) (go : Word) (code : BitVec 8) (detail : Nat), PortFree b s → QueueClear s.tp.queue b 32 →
    s.dd.holder = none → 16 ≤ s.tp.queue.length →
    detail = (if s.dd.marks[0] then 0 else 1) + (if s.dd.marks[1] then 0 else 2) + (if s.dd.marks[2] then 0 else 4)
      + (if s.dd.marks[3] then 0 else 8) + (if s.dd.marks[4] then 0 else 16) + (if s.dd.marks[5] then 0 else 32)
      + (if s.dd.marks[6] then 0 else 64) →
    code = s.dd.latch[0].extractLsb' 0 8 →
    (detail ≠ 0 ∨ code ∉ [0x01#8, 0x02#8, 0x03#8, 0x04#8, 0x05#8, 0x06#8, 0x07#8, 0x08#8, 0x09#8, 0x10#8, 0x11#8, 0x12#8,
      0x13#8, 0x20#8, 0x21#8, 0x22#8, 0x23#8, 0x24#8]) →
    exec (.unknownKind go) s = .next { s with
      dd := { s.dd with
        marks := Vector.replicate 7 false
        count := (s.dd.count + 1) % 65536
        holder := some { kind := if s.dd.marks[0] then code else 0, code := if detail ≠ 0 then .incomplete else .unknownKind
                         count := (s.dd.count + 1) % 65536, detail := BitVec.ofNat 32 detail } }
      tp := { s.tp with upstream := [.write { addr := b + 24, taken := burstWords (goBurst b go), todo := [], run := none
                                              hold := 0, stall := some .outcome }] } }) ∧
  (∀ (b : Nat) (s : State) (go : Word) (c : Instr) (d : Directive), DirectiveReady b s → c.directive = some d →
    s.dd.marks = Vector.replicate 7 true → readDirective s.dd.latch = some d →
    ∃ t, exec c s = .next t ∧ exec (.unknownKind go) s = .next { t with
      dd := { t.dd with latch := s.dd.latch }
      tp := { t.tp with outstanding := s.tp.outstanding ++ [.write (b + 24)] }
      ports := { s.ports with down := s.ports.down ++ [.write (b + 24) (burstWords (goBurst b go))] } }) ∧
  ∀ (b : Nat) (s : State) (go : Word) (c : Instr) (d : Directive), PortFree b s → QueueClear s.tp.queue b 32 →
    s.dd.holder = none → 16 ≤ s.tp.queue.length → c.directive = some d →
    s.dd.marks = Vector.replicate 7 true → readDirective s.dd.latch = some d →
    ∃ t, exec c s = .next t ∧ exec (.unknownKind go) s = .next { t with
      dd := { t.dd with latch := s.dd.latch }
      tp := { t.tp with upstream := [.write { addr := b + 24, taken := burstWords (goBurst b go), todo := [], run := none
                                              hold := 0, stall := some .outcome }] } }

/-- R148, R151, R165. Any directive whatever, written whole while the part is ready for it: it is answered exactly once with the
outcome of its owner, and if that outcome refuses it no block but the Directive Decoder changes. Written while the insertion
queue is full it does the same to every block, its outcome record waits in the outcome holder, and its write is stalled. It
rests on assumption logs 3 and 12 (the model's choices). -/
def Obligations.EveryDirectiveIsAnsweredOnce : Prop :=
  (∀ (b : Nat) (s : State) (c : Instr) (d : Directive), DirectiveReady b s → c.directive = some d →
    ∃ t, exec c s = .next t ∧
      (let v := judgeDirective d s
       t.dd = decoderAfter d s ∧ t.tp.queue = s.tp.queue ++ [outcomeEntry b d v.code.code v.detail s] ∧
       t.ports = (answered b d v.code.code v.detail s).ports ∧
       (v.code ≠ .taken → v.code ≠ .takenClamped → t = answered b d v.code.code v.detail s))) ∧
  ∀ (b : Nat) (s : State) (c : Instr) (d : Directive), PortFree b s → QueueClear s.tp.queue b 32 →
    s.dd.holder = none → 16 ≤ s.tp.queue.length → c.directive = some d →
    ∃ t u, exec c s = .next t ∧ exec c { s with tp := { s.tp with queue := [] } } = .next u ∧
      { t with dd := u.dd, tp := u.tp, ports := u.ports } = u ∧
      (let v := judgeDirective d s
       t.dd = { u.dd with holder := some { kind := kindCode d, code := v.code, count := (s.dd.count + 1) % 65536
                                           detail := BitVec.ofNat 32 v.detail } }) ∧
      t.tp = { u.tp with
        queue := s.tp.queue
        outstanding := s.tp.outstanding
        upstream := [.write { addr := b, taken := burstWords (directiveBurst b d), todo := [], run := none, hold := 0
                              stall := some .outcome }] } ∧
      t.ports = s.ports

/-- R155, R168, section 11.2. Decode and encode agree: whatever a directive's operands, the words of its burst are words 0 to 6
of the mailbox and a go word of 0, each written with every byte enable set, and the Directive Decoder reads back from them
the same directive with the same operands. It reads each operand at the word and the bits of section 11.2, by the kind code
in word 0, and no other bits. It rests on assumption log 3 (the model's choice). -/
def Obligations.DirectiveBurstReadsBackItsOperands : Prop :=
  (∀ (b : Nat) (s : State) (c : Instr) (d : Directive), Running b s → c.directive = some d →
    ∃ w : Vector Word 7, (burstWords (directiveBurst b d)).map (fun x => x.data) = w.toList ++ [0] ∧
      (burstWords (directiveBurst b d)).map (fun x => x.addr) = (List.range 8).map (fun n => b + 4 * n) ∧
      (∀ x ∈ burstWords (directiveBurst b d), x.enables = 0xF) ∧ readDirective w = some d) ∧
  ∀ w : Vector Word 7,
    let code := w[0].extractLsb' 0 8
    (code = 0x01 → readDirective w = some (.setWindows { captureBase := w[1], slotCount := w[2], resultBase := w[3] })) ∧
    (code = 0x02 → readDirective w = some (.setGeometry
      { heads := w[1].extractLsb' 0 8, zones := w[1].extractLsb' 8 8
        wpr := w[2].extractLsb' 0 16, gapLimit := w[2].extractLsb' 16 16 })) ∧
    (code = 0x03 → readDirective w = some (.setZones
      { first := w[0].extractLsb' 8 8, count := w[0].extractLsb' 16 8, tracks := #v[w[1], w[2], w[3], w[4], w[5], w[6]] })) ∧
    (code = 0x04 → readDirective w = some (.setHead
      { head := w[0].extractLsb' 8 8, floor := w[1].extractLsb' 0 16, window := w[1].extractLsb' 16 16, signal := w[2] })) ∧
    (code = 0x05 → readDirective w = some (.setFollow
      { settle := w[1].extractLsb' 0 16, inhibit := w[1].extractLsb' 16 16, limit := w[2].extractLsb' 0 16 })) ∧
    (code = 0x06 → readDirective w = some (.setTimebase
      { source := w[0].extractLsb' 8 2, prescale := w[1].extractLsb' 0 8 })) ∧
    (code = 0x07 → readDirective w = some (.setIndex
      { edge := w[0].extractLsb' 8 2, nominal := w[1], tolerance := w[2].extractLsb' 0 16 })) ∧
    (code = 0x08 → readDirective w = some (.setTimer { mode := w[0].extractLsb' 8 2, period := w[1] })) ∧
    (code = 0x09 → readDirective w = some (.setReports w[1])) ∧
    (code = 0x10 → readDirective w = some (.sweep
      { kind := w[0].extractLsb' 8 2, passes := w[0].extractLsb' 10 2, trigger := w[0].extractLsb' 12 2
        atSpeed := w[0].getLsbD 16, firstHead := w[1].extractLsb' 0 8, lastHead := w[1].extractLsb' 8 8
        zone := w[1].extractLsb' 16 8, quota := w[2].extractLsb' 0 16, deadline := w[2].extractLsb' 16 16
        limit := w[3].extractLsb' 0 16, spreadLimit := w[3].extractLsb' 16 16, jogThreshold := w[4].extractLsb' 0 16 })) ∧
    (code = 0x11 → readDirective w = some .halt) ∧
    (code = 0x12 → readDirective w = some (.clearHead (w[0].extractLsb' 8 8))) ∧
    (code = 0x13 → readDirective w = some (.clearHistory (w[0].extractLsb' 8 8))) ∧
    (code = 0x20 → readDirective w = some (.setImage { base := w[1], length := w[2], checksum := w[3] })) ∧
    (code = 0x21 → readDirective w = some (.mapField
      { offset := w[1], width := w[2].extractLsb' 0 8, encoding := w[2].extractLsb' 8 8, scale := w[2].extractLsb' 16 8
        quantity := w[2].extractLsb' 24 8, head := w[3].extractLsb' 0 8, zone := w[3].extractLsb' 8 8 })) ∧
    (code = 0x22 → readDirective w = some .clearMap) ∧
    (code = 0x23 → readDirective w = some .publish) ∧
    (code = 0x24 → readDirective w = some .release) ∧
    (code ∉ [0x01#8, 0x02#8, 0x03#8, 0x04#8, 0x05#8, 0x06#8, 0x07#8, 0x08#8, 0x09#8, 0x10#8, 0x11#8, 0x12#8, 0x13#8, 0x20#8,
      0x21#8, 0x22#8, 0x23#8, 0x24#8] → readDirective w = none)

/-! ## Device reset -/

/-- R1, R24 to R26, R44, R50, R54, R57, R63, R76, R99, R113, R133, R146, R158, R161: the values after device reset. -/
def Obligations.ResetLeavesTheStatedValues : Prop :=
  State.reset.fr =
    { frame := none, heads := 16, zoneCount := 1, wpr := 256, gapLimit := 3, zones := [0], torn := 0, badWedge := 0 } ∧
  (∀ h : Fin 16, State.reset.fm.record h =
    { state := .unseen, run := 0, acquire := 0, noLockRaised := false, floor := 0, signal := 2048, window := 64,
      history := { acquiring := false, settling := false, following := false, slipped := false } }) ∧
  (State.reset.fm.settle = 8 ∧ State.reset.fm.inhibit = 4 ∧ State.reset.fm.acquireLimit = 512 ∧
    State.reset.fm.active = none ∧ State.reset.fm.last = { head := none, track := none, wedge := none }) ∧
  State.reset.tsm =
    { timebase := .internal, prescale := 6, prescaleCounter := 0, lossCount := 0, edge := .falling, nominal := 0,
      tolerance := 8, lastIndex := false, interval := 0, lastPeriod := none, spindle := .unknown, timerMode := .off,
      timerPeriod := 1, timerCounter := 0 } ∧
  (∀ c : Fin 512, State.reset.table.cell c =
    { centre := none, jog := none, outcome := .untaken, kind := .centre, unread := false, passes := 0 }) ∧
  State.reset.sc =
    { state := .idle, kind := .centre, firstHead := 0, lastHead := 0, zone := 0, quota := 1, deadline := 1,
      passes := .onePass, trigger := .now, atSpeed := false, limit := 0, spreadLimit := 0, jogThreshold := 0,
      currentHead := 0, passNumber := 0, passesCompleted := 0, revolutions := 0, holder := none,
      acc :=
        { n := 0, sumP := 0, sumP2 := 0, sumW := 0, sumWP := 0, least := none, greatest := none, missed := 0,
          slips := 0 } } ∧
  State.reset.ip = { state := .unset, window := none, adjustment := 0, map := [] } ∧
  (∀ k : ReportKind, State.reset.ra.entry k = none ∧ State.reset.ra.enabled k = true) ∧
  (State.reset.ra.writeIndex = 0 ∧ State.reset.ra.occupancy = 0 ∧ State.reset.ra.tally = 0 ∧
    State.reset.ra.latestAddr = none ∧ State.reset.ra.latestKind = none ∧ State.reset.ra.suppressed = false ∧
    State.reset.ra.attn = false ∧ ∀ n : Fin 64, State.reset.ra.marks[n] = false) ∧
  State.reset.dd =
    { latch := #v[0, 0, 0, 0, 0, 0, 0], marks := #v[false, false, false, false, false, false, false], count := 0,
      holder := none } ∧
  (State.reset.tp.captureRing = none ∧ State.reset.tp.resultArea = none ∧ State.reset.tp.queue = [])

/-- R167. RESET_ASSERT from any state at all: every transaction of the bench without a response is ended upstream with ERROR,
and every block returns to its reset values; what has passed at the ports and the waiting commands stay. It rests on
assumption logs 6 and 16 (the model's choices). -/
def Obligations.ResetAssertEndsTransactionsAndClears : Prop :=
  ∀ s : State, ∃ t, exec .resetAssert s = .next t ∧
    { t with ports := State.reset.ports, pending := [] } = State.reset ∧ t.pending = s.pending ∧
    t.ports.down = s.ports.down ∧
    t.ports.up = s.ports.up ++ s.tp.outstanding.map (fun x => match x with
        | .write a => .writeReply a .error
        | .read r _ _ _ => .readReply r .error [])
      ++ s.tp.upstream.map (fun x => match x with
        | .write p => .writeReply p.addr .error
        | .read r => .readReply r .error [])

/-- R157, and assumption log 7 (the model's choice, from R62 and R167) for the last clause. RESET_RELEASE while RESET is low
places the control region by the straps and changes nothing else; while RESET is high the straps are not looked at and
nothing changes. While RESET is low every command but the two of RESET changes nothing. It rests on assumption logs 6 and 7
(the model's choices). -/
def Obligations.ResetReleasePlacesTheControlRegion : Prop :=
  (∀ (s : State) (strap1 strap0 : Bool),
    exec (.resetRelease strap1 strap0) s = .next
      (if s.resetLow then { s with
        resetLow := false
        tp := { s.tp with controlBase := some (match strap1, strap0 with
          | false, false => 0x3FFFF000
          | false, true => 0x7FFFF000
          | true, false => 0xBFFFF000
          | true, true => 0xFFFFF000) } }
      else s)) ∧
  ∀ (s : State) (c : Instr), s.resetLow = true → c ≠ .resetAssert → (∀ x y, c ≠ .resetRelease x y) → exec c s = .next s

/-! ## Timebase, index and timer (chapter 3) -/

/-- R45, R48, R49, R53, R58. With no command waiting, a step is one period of IOSC. With no expiry due, or a timeout due that has
been taken: in EXTERNAL the loss count goes up by 1, or at 24 SREF is lost; otherwise the prescale counter goes up by 1, and
at 2^j the step is that of TICK. A timer expiry and an index timeout that are due are taken first. It rests on assumption
logs 8 and 10 (the model's choices). -/
def Obligations.IdleStepIsOneOscillatorPeriod : Prop :=
  ∀ s : State, s.pending = [] → s.resetLow = false →
    ((s.tsm.timerMode = .off ∨ s.tsm.timerCounter < s.tsm.timerPeriod) →
      (s.tsm.timebase ≠ .external ∨ s.tsm.nominal = 0 ∨ s.tsm.interval ≠ 2 * s.tsm.nominal ∨
        (s.tsm.spindle = .stopped ∧ s.tsm.lastIndex = false)) →
      (s.tsm.timebase = .external → s.tsm.lossCount + 1 < 24 →
        step s = .next { s with tsm := { s.tsm with lossCount := s.tsm.lossCount + 1 } }) ∧
      (s.tsm.timebase = .external → 24 ≤ s.tsm.lossCount + 1 → step s = exec .srefLoss s) ∧
      (s.tsm.timebase ≠ .external → s.tsm.prescaleCounter + 1 < 2 ^ s.tsm.prescale →
        step s = .next { s with tsm := { s.tsm with prescaleCounter := s.tsm.prescaleCounter + 1 } }) ∧
      (s.tsm.timebase ≠ .external → s.tsm.lossCount = 0 → 2 ^ s.tsm.prescale ≤ s.tsm.prescaleCounter + 1 →
        step s = exec .tick s)) ∧
    ∃ t u, exec .timerExpiry s = .next t ∧ exec .indexTimeout t = .next u ∧ step s = step u

/-- R45, R50, R57, and R53 and R58 for an expiry that is due. TICK with no expiry due, or a timeout due that has been taken: the
prescale counter returns to 0, the index interval gains 1 and stays at 16,777,215, and a running timer's counter gains 1;
the loss count is 0. Nothing else changes. A timer expiry and an index timeout that are due are taken first. It rests on
assumption logs 9 and 10 (the model's choices). -/
def Obligations.TickCountsIntervalAndTimer : Prop :=
  ∀ s : State, s.resetLow = false →
    ((s.tsm.timerMode = .off ∨ s.tsm.timerCounter < s.tsm.timerPeriod) →
      (s.tsm.timebase ≠ .external ∨ s.tsm.nominal = 0 ∨ s.tsm.interval ≠ 2 * s.tsm.nominal ∨
        (s.tsm.spindle = .stopped ∧ s.tsm.lastIndex = false)) →
      exec .tick s = .next { s with tsm := { s.tsm with
        prescaleCounter := 0
        lossCount := 0
        interval := min 16777215 (s.tsm.interval + 1)
        timerCounter := if s.tsm.timerMode = .off then 0 else s.tsm.timerCounter + 1 } }) ∧
    ∃ t u, exec .timerExpiry s = .next t ∧ exec .indexTimeout t = .next u ∧ exec .tick s = exec .tick u

/-- R45, R48. SREF_RISING_EDGE: in EXTERNAL the loss count becomes 0 and the prescale counter advances, a tick ending when it
would reach 2^j; in INTERNAL and FALLBACK the edge is not counted. -/
def Obligations.SrefEdgeAdvancesTheTick : Prop :=
  ∀ s : State, s.resetLow = false →
    (s.tsm.timebase ≠ .external → exec .srefRisingEdge s = .next s) ∧
    (s.tsm.timebase = .external → s.tsm.prescaleCounter + 1 < 2 ^ s.tsm.prescale →
      exec .srefRisingEdge s = .next { s with
        tsm := { s.tsm with lossCount := 0, prescaleCounter := s.tsm.prescaleCounter + 1 } }) ∧
    (s.tsm.timebase = .external → 2 ^ s.tsm.prescale ≤ s.tsm.prescaleCounter + 1 →
      exec .srefRisingEdge s = exec .tick s)

/-- R46, R49, R93, and R53 and R58 for an expiry that is due. SREF_LOSS in EXTERNAL: FALLBACK, the timebase restarted, REFERENCE
LOST raised, and a sweep that runs aborted with reason REFERENCE, no cell and no record touched. A timer expiry and an index
timeout that are due are taken first. In INTERNAL and FALLBACK supervision does not run. It rests on assumption logs 9 and
10 (the model's choices). -/
def Obligations.SrefLossFallsBackAndAborts : Prop :=
  ∀ s : State, s.resetLow = false →
    (s.tsm.timebase ≠ .external → exec .srefLoss s = .next s) ∧
    (s.tsm.timebase = .external → (s.tsm.timerMode = .off ∨ s.tsm.timerCounter < s.tsm.timerPeriod) →
      (s.tsm.nominal = 0 ∨ s.tsm.interval ≠ 2 * s.tsm.nominal ∨ (s.tsm.spindle = .stopped ∧ s.tsm.lastIndex = false)) →
      let lost := s.ra.raise .referenceLost { place := none, a := 0, b := 0 }
      exec .srefLoss s = .next { s with
        tsm := { s.tsm with
          timebase := .fallback
          lossCount := 0
          prescaleCounter := 0
          timerCounter := 0
          lastIndex := false
          interval := 0
          lastPeriod := none
          spindle := .unknown }
        sc := { s.sc with state := .idle }
        ra := if s.sc.state = .idle then lost else lost.raise .sweepAborted
          { place := some (s.sc.currentHead, s.sc.zone), a := 1, b := s.sc.state.code } }) ∧
    (s.tsm.timebase = .external → ∃ t u, exec .timerExpiry s = .next t ∧ exec .indexTimeout t = .next u ∧
      exec .srefLoss s = exec .srefLoss u)

/-- R53, R55, R93. INDEX_TIMEOUT with the interval at 2 × P in EXTERNAL with P set: the last index time becomes absent, the last
period is kept and the spindle is STOPPED; if it was not, SPINDLE FAULT is raised and a sweep that runs is aborted with
reason SPINDLE. Otherwise nothing changes. It rests on assumption log 10 (the model's choice). -/
def Obligations.IndexTimeoutStopsTheSpindle : Prop :=
  ∀ s : State, s.resetLow = false →
    ((s.tsm.timebase ≠ .external ∨ s.tsm.nominal = 0 ∨ s.tsm.interval ≠ 2 * s.tsm.nominal) →
      exec .indexTimeout s = .next s) ∧
    (s.tsm.timebase = .external → s.tsm.nominal ≠ 0 → s.tsm.interval = 2 * s.tsm.nominal →
      let fault := s.ra.raise .spindleFault { place := none, a := 3, b := s.tsm.lastPeriod.getD 0 }
      exec .indexTimeout s = .next { s with
        tsm := { s.tsm with lastIndex := false, spindle := .stopped }
        sc := if s.tsm.spindle = .stopped then s.sc else { s.sc with state := .idle }
        ra := if s.tsm.spindle = .stopped then s.ra else if s.sc.state = .idle then fault else fault.raise .sweepAborted
          { place := some (s.sc.currentHead, s.sc.zone), a := 2, b := s.sc.state.code } })

/-- R58, R80, R81. TIMER_EXPIRY with the counter at the period: PERIODIC counts on from 0, ONE_SHOT turns OFF, and a sweep ARMED on
TIMER starts its pass; with the timer OFF or short of its period nothing changes. It rests on assumption log 10 (the
model's choice). -/
def Obligations.TimerExpiryStartsAPass : Prop :=
  ∀ s : State, s.resetLow = false →
    ((s.tsm.timerMode = .off ∨ s.tsm.timerCounter < s.tsm.timerPeriod) → exec .timerExpiry s = .next s) ∧
    (s.tsm.timerMode ≠ .off → s.tsm.timerPeriod ≤ s.tsm.timerCounter →
      let started := s.sc.state = .armed ∧ s.sc.trigger = .timer
      exec .timerExpiry s = .next { s with
        tsm := { s.tsm with
          timerMode := if s.tsm.timerMode = .oneShot then .off else s.tsm.timerMode
          timerCounter := 0 }
        sc := if started then
            { s.sc with
              state := .awaitHead
              currentHead := s.sc.firstHead
              revolutions := 0
              passNumber := min 65535 (s.sc.passNumber + 1) }
          else s.sc
        ra := if started then s.ra.raise .headRequest { place := some (s.sc.firstHead, s.sc.zone), a := 0, b := 0 }
          else s.ra })

/-- R51, R52, R55. INDEX_EVENT: an edge of the other direction is ignored, whatever the sweep does and whatever is due. While no
sweep runs and no timeout is due, an edge of the active direction in INTERNAL or FALLBACK, or with P unset, returns the
interval to 0 and records no index time; otherwise the spindle is judged by the interval read, UNKNOWN without an index
time, a change of state raises its report, and the index time is recorded. It rests on assumption log 10 (the model's
choice). -/
def Obligations.IndexEventJudgesTheSpindle : Prop :=
  (∀ (s : State) (e : Edge), s.resetLow = false → e ≠ s.tsm.edge → exec (.indexEvent e) s = .next s) ∧
  ∀ (s : State) (e : Edge), s.resetLow = false → s.sc.state = .idle →
    (s.tsm.timebase ≠ .external ∨ s.tsm.nominal = 0 ∨ s.tsm.interval ≠ 2 * s.tsm.nominal) →
    (e = s.tsm.edge → s.tsm.timebase ≠ .external ∨ s.tsm.nominal = 0 →
      exec (.indexEvent e) s = .next { s with tsm := { s.tsm with interval := 0, lastIndex := false } }) ∧
    (e = s.tsm.edge → s.tsm.timebase = .external → s.tsm.nominal ≠ 0 → s.tsm.lastIndex = false →
      exec (.indexEvent e) s = .next { s with
        tsm := { s.tsm with interval := 0, lastIndex := true, spindle := .unknown } }) ∧
    (e = s.tsm.edge → s.tsm.timebase = .external → s.tsm.nominal ≠ 0 → s.tsm.lastIndex = true →
      let period := s.tsm.interval
      let good := ((period : Int) - s.tsm.nominal).natAbs * 1024 ≤ s.tsm.tolerance * s.tsm.nominal
      let new := if good then SpindleState.atSpeed else SpindleState.offSpeed
      exec (.indexEvent e) s = .next { s with
        tsm := { s.tsm with interval := 0, lastIndex := true, lastPeriod := some period, spindle := new }
        ra := if s.tsm.spindle = new then s.ra
          else if good then s.ra.raise .spindleReady { place := none, a := period, b := 0 }
          else s.ra.raise .spindleFault { place := none, a := 2, b := period } })

/-- R51 to R53, R80, R81, R88 to R90. INDEX_EVENT in every sweep state. As delivered: ARMED on INDEX starts its pass, IDLE and ARMED
on another trigger ignore it, a wait or a measurement counts one revolution, unless a record waits in the result holder, and
at the deadline the cell closes, NO_HEAD from a wait and SHORT from a measurement. Then the spindle is judged as without a
sweep, the reports joining those of the delivery; an index timeout that is due is taken between the two. It rests on
assumption logs 10 and 12 (the model's choices). -/
def Obligations.IndexEventDrivesTheSweep : Prop :=
  ∀ s : State, s.resetLow = false → ∃ d : State,
    (let waits := s.sc.state = .awaitHead ∨ s.sc.state = .measuring
     let revolutions := min 255 (s.sc.revolutions + 1)
     let counted : State := { s with sc := { s.sc with revolutions := revolutions } }
     (s.sc.state = .idle ∨ (s.sc.state = .armed ∧ s.sc.trigger ≠ .index) ∨ (waits ∧ s.sc.holder ≠ none) → d = s) ∧
     (s.sc.state = .armed → s.sc.trigger = .index → d = { s with
        sc := { s.sc with
          state := .awaitHead
          currentHead := s.sc.firstHead
          revolutions := 0
          passNumber := min 65535 (s.sc.passNumber + 1) }
        ra := s.ra.raise .headRequest { place := some (s.sc.firstHead, s.sc.zone), a := 0, b := 0 } }) ∧
     (waits → s.sc.holder = none → revolutions < s.sc.deadline → d = counted) ∧
     (s.sc.state = .awaitHead → s.sc.holder = none → s.sc.deadline ≤ revolutions → d = counted.closeCell .noHead) ∧
     (s.sc.state = .measuring → s.sc.holder = none → s.sc.deadline ≤ revolutions → d = counted.closeCell .short)) ∧
    (s.tsm.timebase ≠ .external ∨ s.tsm.nominal = 0 →
      exec (.indexEvent s.tsm.edge) s = .next { d with tsm := { s.tsm with interval := 0, lastIndex := false } }) ∧
    (s.tsm.timebase = .external → s.tsm.nominal ≠ 0 → s.tsm.interval ≠ 2 * s.tsm.nominal → s.tsm.lastIndex = false →
      exec (.indexEvent s.tsm.edge) s = .next { d with
        tsm := { s.tsm with interval := 0, lastIndex := true, spindle := .unknown } }) ∧
    (s.tsm.timebase = .external → s.tsm.nominal ≠ 0 → s.tsm.interval ≠ 2 * s.tsm.nominal → s.tsm.lastIndex = true →
      let period := s.tsm.interval
      let good := ((period : Int) - s.tsm.nominal).natAbs * 1024 ≤ s.tsm.tolerance * s.tsm.nominal
      let new := if good then SpindleState.atSpeed else SpindleState.offSpeed
      exec (.indexEvent s.tsm.edge) s = .next { d with
        tsm := { s.tsm with interval := 0, lastIndex := true, lastPeriod := some period, spindle := new }
        ra := if s.tsm.spindle = new then d.ra
          else if good then d.ra.raise .spindleReady { place := none, a := period, b := 0 }
          else d.ra.raise .spindleFault { place := none, a := 2, b := period } }) ∧
    (s.tsm.timebase = .external → s.tsm.nominal ≠ 0 → s.tsm.interval = 2 * s.tsm.nominal →
      let fault := d.ra.raise .spindleFault { place := none, a := 3, b := s.tsm.lastPeriod.getD 0 }
      exec (.indexEvent s.tsm.edge) s = .next { d with
        tsm := { s.tsm with interval := 0, lastIndex := true, spindle := .unknown }
        sc := if s.tsm.spindle = .stopped then d.sc else { d.sc with state := .idle }
        ra := if s.tsm.spindle = .stopped then d.ra else if d.sc.state = .idle then fault else fault.raise .sweepAborted
          { place := some (d.sc.currentHead, d.sc.zone), a := 2, b := d.sc.state.code } })

/-! ## The insertion queue and the reports (chapters 8 and 10) -/

/-- R143, R162, R168. The insertion queue delivers its records one at a time. INSERT_ISSUE with no record in flight sends the front
record as one burst of four beats with every byte enable set, the lower-addressed word in the lower half of its beat, and with one in flight or an empty queue changes nothing (assumption log 11). INSERT_WRITE_OKAY with a record in
flight takes it out of the queue, a write held at the upstream port waits for one record less, and a set suppression of
INSERT FAULT ends, raising it once when the tally is above 0; with none in flight it changes nothing. It rests on
assumption logs 11 and 13 (the model's choices). -/
def Obligations.InsertionQueueDeliversInOrder : Prop :=
  ∀ (s : State) (e : QueueEntry) (rest : List QueueEntry), s.resetLow = false →
    (s.tp.queue = e :: rest → s.tp.inFlight = false → exec .insertIssue s = .next { s with
      tp := { s.tp with inFlight := true }
      ports := { s.ports with down := s.ports.down ++ [.insert
        { addr := BitVec.ofNat 32 e.addr
          beats := [{ data := e.words.getD 1 0 ++ e.words.getD 0 0, lanes := 0xFF },
                    { data := e.words.getD 3 0 ++ e.words.getD 2 0, lanes := 0xFF },
                    { data := e.words.getD 5 0 ++ e.words.getD 4 0, lanes := 0xFF },
                    { data := e.words.getD 7 0 ++ e.words.getD 6 0, lanes := 0xFF }] }] } }) ∧
    (s.tp.inFlight = true ∨ s.tp.queue = [] → exec .insertIssue s = .next s) ∧
    (s.tp.inFlight = false ∨ s.tp.queue = [] → exec .insertWriteOkay s = .next s) ∧
    (s.tp.queue = e :: rest → s.tp.inFlight = true → exec .insertWriteOkay s = .next { s with
      tp := { s.tp with
        queue := rest
        inFlight := false
        upstream := s.tp.upstream.map fun x => match x with
          | .write p => .write { p with hold := p.hold - 1 }
          | .read r => .read r }
      ra := if s.ra.suppressed = false then s.ra
        else if s.ra.tally = 0 then { s.ra with suppressed := false }
        else { s.ra with suppressed := false }.raise .insertFault
          { place := none, a := s.ra.latestAddr.getD 0, b := (s.ra.latestKind.map InsertKind.code).getD 0 } })

/-- R70, R142, R143, R166. INSERT_WRITE_ERROR with a record in flight: it leaves the queue and a write held at the upstream port
waits for one record less; a result record clears its cell's unread flag unless a later record of the cell is queued; a
report record with its slot occupied releases it, the occupancy and ATTN following; the latest address and kind are the record's and the tally goes up by 1.
INSERT FAULT is raised with them (R135, a masked kind leaving no trace), unless suppression is set or the record is itself an INSERT FAULT report: that one gives
its fault count back to the tally with its own fault, raises nothing, and sets the suppression. With none in flight nothing
changes. It rests on assumption logs 11, 13 and 22 (the model's choices). -/
def Obligations.InsertErrorDropsTheRecord : Prop :=
  [InsertKind.result, .outcome, .report].map InsertKind.code = [1, 2, 3] ∧
  ∀ (s : State) (e : QueueEntry) (rest : List QueueEntry), s.resetLow = false →
    (s.tp.inFlight = false ∨ s.tp.queue = [] → exec .insertWriteError s = .next s) ∧
    (s.tp.queue = e :: rest → s.tp.inFlight = true → (∀ n, e.kind = .report n → s.ra.marks[n] = true) →
      ∃ t, exec .insertWriteError s = .next t ∧
        { t with tp := s.tp, ra := s.ra, table := s.table } = s ∧
        t.tp.queue = rest ∧ t.tp.inFlight = false ∧
        { t.tp with queue := s.tp.queue, inFlight := true, upstream := s.tp.upstream } = s.tp ∧
        (t.tp.upstream = s.tp.upstream.map fun x => match x with
          | .write p => .write { p with hold := p.hold - 1 }
          | .read r => .read r) ∧
        (∀ c : Fin 512, t.table.cell c =
          if e.kind = .result c ∧ ∀ x ∈ rest, x.kind ≠ .result c then { s.table.cell c with unread := false }
          else s.table.cell c) ∧
        (let released : ReportArbiter := match e.kind with
           | .report n => { s.ra with
               marks := s.ra.marks.set n false, occupancy := s.ra.occupancy - 1, attn := decide (0 < s.ra.occupancy - 1) }
           | .result _ => s.ra
           | .outcome => s.ra
         let counted : ReportArbiter := { released with
           latestAddr := some e.addr
           latestKind := some e.kind.insertKind
           tally := min 65535 (s.ra.tally + (1 + if e.isInsertFault then (e.words.getD 3 0).toNat / 65536 else 0)) }
         t.ra = if e.isInsertFault then { counted with suppressed := true }
           else if s.ra.suppressed then counted
           else counted.raise .insertFault { place := none, a := e.addr, b := e.kind.insertKind.code }) ∧
        (e.isInsertFault = true ↔ (∃ n, e.kind = .report n) ∧ (e.words.getD 0 0).extractLsb' 0 8 = 2))

/-- R134, R135. A raise at the Report Arbiter: a masked kind leaves no trace; an enabled kind without an entry gets one with repeat
count 1; a pending entry's repeat count goes up by 1 to at most 255, its detail changing by the last column of R134. No other
entry changes, nor anything else of the Report Arbiter. -/
def Obligations.RaiseCreatesOrUpdatesTheEntry : Prop :=
  ∀ (ra : ReportArbiter) (k : ReportKind) (d : ReportDetail),
    { ra.raise k d with pend := ra.pend } = ra ∧
    (∀ j, j ≠ k → (ra.raise k d).entry j = ra.entry j) ∧
    (ra.enabled k = false → ra.raise k d = ra) ∧
    (ra.enabled k = true → ra.entry k = none → (ra.raise k d).entry k = some { repeats := 1, detail := d }) ∧
    ∀ e, ra.enabled k = true → ra.entry k = some e → ∃ x, (ra.raise k d).entry k = some { repeats := min 255 (e.repeats + 1), detail := x } ∧
      match k with
      | .referenceLost => x = e.detail
      | .frameFault => x = e.detail
      | .noLock => x.a = e.detail.a ||| d.a
      | _ => x = d

/-- R134, R138, R139, R143, R163, R168, R169. REPORT_GRANT makes no grant while the slot at the write index is occupied, fewer than 4 entries of the
queue are free or a holder waits; at an occupancy of 56 or more every ROUTINE entry stays as it is; and it grants the kind
`k`, URGENT before ROUTINE and in the default order, by building its record into the queue at the slot's address, clearing
its entry, marking the slot, counting it and moving the write index on, reads already sent losing their notice for the slot.
FRAME FAULT carries the Frame Reducer's counts, which restart; INSERT FAULT carries the tally, which restarts, with the
address and the record kind of its pending entry. The record has the fields of section 11.4 at their bits, the head and zone
present together or 0, and every other bit 0. It rests on assumption logs 11 (no grant changes nothing), 12 (a grant is a
step of its own) and 20 (the address and kind of INSERT FAULT are those of the entry), the model's choices. -/
def Obligations.ReportGrantFillsTheSlotAtTheWriteIndex : Prop :=
  (∀ (b : Nat) (s : State), Running b s →
    ((s.ra.marks[s.ra.writeIndex] = true ∨ 12 < s.tp.queue.length ∨ s.dd.holder ≠ none ∨ s.sc.holder ≠ none) →
      exec .reportGrant s = .next s) ∧
    ((∀ k, s.ra.entry k = none ∨ (k.urgent = false ∧ 56 ≤ s.ra.occupancy)) → exec .reportGrant s = .next s) ∧
    (∃ t, exec .reportGrant s = .next t ∧
      (56 ≤ s.ra.occupancy → ∀ k, k.urgent = false → t.ra.entry k = s.ra.entry k)) ∧
    ∀ (k : ReportKind) (e : PendingEntry), s.ra.marks[s.ra.writeIndex] = false → s.tp.queue.length ≤ 12 →
      s.dd.holder = none → s.sc.holder = none → s.ra.entry k = some e → (k.urgent = true ∨ s.ra.occupancy < 56) →
      (∀ j, s.ra.entry j ≠ none → (j.urgent = true ∨ s.ra.occupancy < 56) → k.index ≤ j.index) →
      exec .reportGrant s = .next { s with
        tp := { s.tp with
          queue := s.tp.queue ++
            [{ addr := b + 0x800 + 32 * s.ra.writeIndex.val
               words := reportWords k e.repeats
                 { place := e.detail.place
                   a := if k = .frameFault then s.fr.torn else e.detail.a
                   b := if k = .frameFault then s.fr.badWedge
                     else if k = .insertFault then e.detail.b + 65536 * s.ra.tally else e.detail.b }
               kind := .report s.ra.writeIndex }]
          outstanding := s.tp.outstanding.map fun x => match x with
            | .write a => .write a
            | .read r ofResult cells slots => .read r ofResult cells (slots.filter fun n => n ≠ s.ra.writeIndex) }
        fr := if k = .frameFault then { s.fr with torn := 0, badWedge := 0 } else s.fr
        ra := { s.ra with
          pend := s.ra.pend.set k.index none
          marks := s.ra.marks.set s.ra.writeIndex true
          occupancy := s.ra.occupancy + 1
          attn := true
          writeIndex := s.ra.writeIndex + 1
          tally := if k = .insertFault then 0 else s.ra.tally } }) ∧
  (let kinds := [ReportKind.referenceLost, .insertFault, .spindleFault, .sweepAborted, .resultOverrun, .headRequest, .cellClosed,
      .sweepDone, .noLock, .spindleReady, .frameFault]
   kinds.map (fun k => k.index.val) = List.range 11 ∧ ∀ k ∈ kinds,
      k.code = k.index.val + 1 ∧ (k.urgent = true ↔ k.index < 5)) ∧
  ∀ (k : ReportKind) (repeats : Nat) (d : ReportDetail), repeats ≤ 255 →
    ∃ w0 w1 : Word, reportWords k repeats d = [w0, w1, BitVec.ofNat 32 d.a, BitVec.ofNat 32 d.b, 0, 0, 0, 0] ∧
      ((w0.extractLsb' 0 8).toNat = k.code ∧ w0.getLsbD 8 = k.urgent ∧ w0.extractLsb' 9 7 = 0 ∧
        (w0.extractLsb' 16 8).toNat = repeats ∧ w0.extractLsb' 24 8 = 0) ∧
      (d.place = none → w1 = 0) ∧
      ∀ h z, d.place = some (h, z) → (w1.extractLsb' 0 8).toNat = h.val ∧ (w1.extractLsb' 8 8).toNat = z.val ∧
        w1.getLsbD 16 = true ∧ w1.extractLsb' 17 15 = 0

/-- R151, R168. OUTCOME_RECORD_ENTRY: a waiting outcome record enters the queue at offset 0x020 when an entry is free, its holder
empties, and the go word write held for it, its other words taken and no queued record overlapping it, passes downstream.
Whatever is left of that write, it then goes on as a transaction released at the front of the upstream port; with no record
waiting or no entry free nothing changes. The record has the fields of section 11.3 at their bits and every other bit 0. It
rests on assumption logs 12 and 15 (the model's choices). -/
def Obligations.OutcomeRecordEntersAndReleasesTheGoWord : Prop :=
  (∀ (b : Nat) (s : State) (r : OutcomeRecord), Running b s →
    (s.dd.holder = none ∨ 16 ≤ s.tp.queue.length → exec .outcomeRecordEntry s = .next s) ∧
    (s.dd.holder = some r → s.tp.queue.length < 16 →
      let entered : TransferPath := { s.tp with
        queue := s.tp.queue ++ [{ addr := b + 0x20, words := outcomeWords r, kind := .outcome }] }
      (s.tp.upstream = [] → exec .outcomeRecordEntry s = .next { s with
        tp := entered, dd := { s.dd with holder := none } }) ∧
      (∀ (p : WriteProgress) (rest : List Upstream), s.tp.upstream = .write p :: rest → p.stall = some .outcome →
        p.todo = [] → p.hold = 0 → exec .outcomeRecordEntry s = .next { s with
          tp := { entered with upstream := rest, outstanding := s.tp.outstanding ++ [.write p.addr] }
          dd := { s.dd with holder := none }
          ports := { s.ports with down := s.ports.down ++ [.write p.addr p.taken] } }) ∧
      (∀ (p : WriteProgress) (rest : List Upstream), s.tp.upstream = .write p :: rest → p.stall = some .outcome →
        exec .outcomeRecordEntry s = exec .heldTransactionRelease { s with
          tp := { entered with upstream := .write { p with stall := none } :: rest }
          dd := { s.dd with holder := none } }))) ∧
  [OutcomeCode.taken, .takenClamped, .incomplete, .unknownKind, .badValue, .busy, .overlap, .state, .full].map OutcomeCode.code =
    [1, 2, 3, 4, 5, 6, 7, 8, 9] ∧
  ∀ r : OutcomeRecord, r.count ≤ 65535 →
    ∃ w0 w1 : Word, outcomeWords r = [w0, w1, r.detail, 0, 0, 0, 0, 0] ∧
      (w0.extractLsb' 0 8 = r.kind ∧ (w0.extractLsb' 8 8).toNat = r.code.code ∧ w0.extractLsb' 16 16 = 0) ∧
      (w1.extractLsb' 0 16).toNat = r.count ∧ w1.extractLsb' 16 16 = 0

/-- R67, R108, R110, R161, R163, R165, R168, R169. RESULT_RECORD_ENTRY: a waiting result record enters the queue when an entry is free and no
outcome record waits; its overrun flag is the unread flag as it stood, RESULT OVERRUN is raised if that was set, the unread
flag is set, CELL CLOSED is raised, the holder empties, and reads already sent lose their notice for the cell. A frame word 7
write stalled for it is stalled no longer and goes on as a transaction released at the front of the upstream port: it passes
when its other words are taken and no queued record holds it. Nothing else at the upstream port moves. Otherwise nothing
changes. The record has the fields of section 11.5 at their bits, each present flag as its value is present, an absent field
0, and every other bit 0. It rests on assumption logs 11, 12 and 15 (the model's choices). -/
def Obligations.ResultRecordEntersWithItsOverrunFlag : Prop :=
  (∀ (s : State) (r : ResultRecord), s.resetLow = false →
    (s.sc.holder = none ∨ 16 ≤ s.tp.queue.length ∨ s.dd.holder ≠ none → exec .resultRecordEntry s = .next s) ∧
    (s.sc.holder = some r → s.tp.queue.length < 16 → s.dd.holder = none →
      let c := cellIndex r.head r.zone
      let unread := (s.table.cell c).unread
      ∃ entered : State,
        { entered with tp := s.tp, table := s.table, sc := s.sc, ra := s.ra } = s ∧
        entered.sc = { s.sc with holder := none } ∧
        entered.tp = { s.tp with
          queue := s.tp.queue ++ [{ addr := r.addr, words := resultWords r unread, kind := .result c }]
          outstanding := s.tp.outstanding.map fun x => match x with
            | .write a => .write a
            | .read b ofResult cells slots => .read b ofResult (cells.filter fun x => x ≠ c) slots } ∧
        (∀ x : Fin 512, entered.table.cell x =
          if x = c then { s.table.cell c with unread := true } else s.table.cell x) ∧
        entered.ra = (if unread then s.ra.raise .resultOverrun { place := some (r.head, r.zone), a := 0, b := 0 }
          else s.ra).raise .cellClosed { place := some (r.head, r.zone), a := r.outcome.code, b := 0 } ∧
        ((∀ p rest, s.tp.upstream = .write p :: rest → p.stall ≠ some .result) →
          exec .resultRecordEntry s = .next entered) ∧
        ∀ (p : WriteProgress) (rest : List Upstream), s.tp.upstream = .write p :: rest → p.stall = some .result →
          exec .resultRecordEntry s = exec .heldTransactionRelease { entered with
            tp := { entered.tp with upstream := .write { p with stall := none } :: rest } } ∧
          (p.todo = [] → p.hold = 0 → exec .resultRecordEntry s = .next { entered with
            tp := { entered.tp with upstream := rest, outstanding := entered.tp.outstanding ++ [.write p.addr] }
            ports := { s.ports with down := s.ports.down ++ [.write p.addr p.taken] } }))) ∧
  ([CellOutcome.accepted, .rejected, .edge, .noSignal, .short, .noHead].map CellOutcome.code = [1, 2, 3, 4, 5, 6] ∧
    [Quantity.centre, .jog].map Quantity.code = [0, 1]) ∧
  ∀ (r : ResultRecord) (overrun : Bool), r.n ≤ 4096 → r.spread ≤ 65535 → r.missed ≤ 65535 → r.slips ≤ 65535 →
    r.passNumber ≤ 65535 →
    ∃ w0 w1 w2 w3 w4 w5 w7 : Word, resultWords r overrun = [w0, w1, w2, w3, w4, w5, 0, w7] ∧
      ((w0.extractLsb' 0 8).toNat = r.head.val ∧ (w0.extractLsb' 8 8).toNat = r.zone.val ∧
        (w0.extractLsb' 16 2).toNat = r.kind.code ∧ w0.extractLsb' 18 6 = 0 ∧
        (w0.extractLsb' 24 3).toNat = r.outcome.code ∧ w0.extractLsb' 27 5 = 0) ∧
      ((w1.extractLsb' 0 13).toNat = r.n ∧ w1.extractLsb' 13 19 = 0) ∧
      (w2.getLsbD 31 = r.value.isSome ∧ w2.getLsbD 30 = r.extremes.isSome ∧ w2.extractLsb' 16 14 = 0 ∧
        (r.value = none → w2.extractLsb' 0 16 = 0) ∧
        ∀ v, r.value = some v → -32768 ≤ v → v ≤ 32767 → (w2.extractLsb' 0 16).toInt = v) ∧
      ((r.kind = .centre → (w3.extractLsb' 0 16).toNat = r.spread ∧ w3.extractLsb' 16 16 = 0) ∧
        (r.kind = .jog → r.extremes = none → w3 = 0) ∧
        ∀ lo hi, r.kind = .jog → r.extremes = some (lo, hi) → -32768 ≤ lo → lo ≤ 32767 → -32768 ≤ hi → hi ≤ 32767 →
          (w3.extractLsb' 0 16).toInt = lo ∧ (w3.extractLsb' 16 16).toInt = hi) ∧
      ((w4.extractLsb' 0 16).toNat = r.missed ∧ (w4.extractLsb' 16 16).toNat = r.slips) ∧
      (w5.getLsbD 0 = r.history.acquiring ∧ w5.getLsbD 1 = r.history.settling ∧ w5.getLsbD 2 = r.history.following ∧
        w5.getLsbD 3 = r.history.slipped ∧ w5.extractLsb' 4 28 = 0) ∧
      (w7.extractLsb' 0 16).toNat = r.passNumber ∧ w7.extractLsb' 16 15 = 0 ∧ w7.getLsbD 31 = overrun

/-! ## The bench's transactions (chapter 10) -/

/-- R156, R163 to R165. HELD_TRANSACTION_RELEASE: the front transaction passes downstream once nothing holds it, a read when no queued
record shares a byte with it, with its notices to come, a write whose words are all taken when no record it waits for is
left; a read that is still held, a stalled write, or an empty port changes nothing. A write that has waited behind another
with none of its words taken is taken as if it arrived at a free port; and one with words left that no block watches has
them taken, waits for the records they overlap, and passes if there is none. A write whose stall has ended has
the words after the stalling one taken, in whatever window they lie, as a write of those words that arrives at a free port: it
then passes whole, waits for the records it or they overlap, or is stalled again. What waits behind goes on waiting. It rests
on assumption logs 13 and 15 (the model's choices). -/
def Obligations.HeldTransactionPassesWhenFree : Prop :=
  ∀ (s : State) (rest : List Upstream), s.resetLow = false →
    (s.tp.upstream = [] → exec .heldTransactionRelease s = .next s) ∧
    (∀ r : ReadBurst, s.tp.upstream = .read r :: rest →
      (readHeld s.tp.queue r = true → exec .heldTransactionRelease s = .next s) ∧
      (readHeld s.tp.queue r = true ↔ ∃ e ∈ s.tp.queue, ∃ x ∈ readWords r, Touches e x) ∧
      (readHeld s.tp.queue r = false → exec .heldTransactionRelease s = .next { s with
          tp := { s.tp with
            upstream := rest
            outstanding := s.tp.outstanding ++ [.read r (asksResultArea s.tp r) (noticeCells s.tp r) (noticeSlots s.tp r)] }
          ports := { s.ports with down := s.ports.down ++ [.read r] } })) ∧
    (∀ p : WriteProgress, s.tp.upstream = .write p :: rest →
      (p.stall ≠ none ∨ (p.todo = [] ∧ p.hold ≠ 0) → exec .heldTransactionRelease s = .next s) ∧
      (p.stall = none → p.todo = [] → p.hold = 0 → exec .heldTransactionRelease s = .next { s with
        tp := { s.tp with upstream := rest, outstanding := s.tp.outstanding ++ [.write p.addr] }
        ports := { s.ports with down := s.ports.down ++ [.write p.addr p.taken] } }) ∧
      ∀ b : Nat, p.stall = none → Running b s → (∀ x ∈ p.todo, x.enables ≠ 0 → OutsideWindows b s x.addr) →
        ∃ (hold : Nat) (run : Option SlotRun), Held s.tp.queue p.todo p.hold hold ∧
          let held := { p with taken := p.taken ++ p.todo, todo := [], hold := hold, run := run }
          exec .heldTransactionRelease s = .next (if hold = 0 then { s with
            tp := { s.tp with upstream := rest, outstanding := s.tp.outstanding ++ [.write p.addr] }
            ports := { s.ports with down := s.ports.down ++ [.write p.addr (p.taken ++ p.todo)] } }
          else { s with tp := { s.tp with upstream := .write held :: rest } })) ∧
    (∀ (p : WriteProgress) (w : WriteBurst), s.tp.upstream = .write p :: rest → p.stall = none → burstWords w = p.todo →
      ∃ t run, exec (.upstreamWrite (.arrive w)) { s with tp := { s.tp with upstream := [] } } = .next t ∧
        ((∃ words, t.tp.upstream = [] ∧ t.ports.down = s.ports.down ++ [.write w.addr.toNat words] ∧
          let u : State := { t with tp := { t.tp with outstanding := t.tp.outstanding.dropLast }, ports := s.ports }
          exec .heldTransactionRelease s = .next (if p.hold = 0 then { u with
            tp := { u.tp with upstream := rest, outstanding := u.tp.outstanding ++ [.write p.addr] }
            ports := { s.ports with down := s.ports.down ++ [.write p.addr (p.taken ++ words)] } }
          else { u with
            tp := { u.tp with upstream := .write { p with taken := p.taken ++ words, todo := [], run := run } :: rest } })) ∨
        ∃ q, t.tp.upstream = [.write q] ∧ exec .heldTransactionRelease s = .next { t with
          tp := { t.tp with upstream := .write { q with
            addr := p.addr, taken := p.taken ++ q.taken, run := run, hold := max p.hold q.hold } :: rest } })) ∧
    ∀ w : WriteBurst, s.tp.upstream = .write (newWrite w) :: rest →
      ∃ t, exec (.upstreamWrite (.arrive w)) { s with tp := { s.tp with upstream := [] } } = .next t ∧
        exec .heldTransactionRelease s = .next { t with tp := { t.tp with upstream := t.tp.upstream ++ rest } }

/-- R68, R140, R156, R158, R163. A read arrives at a free port: a queued record that shares a byte with it holds it; otherwise it
passes downstream, kept as a read of the result area exactly when it asks for a byte of the area as it stands, with a notice to
come for exactly the cells and the slots of which it asks for a byte of word 7, and for no cell while there is no result area. It rests on assumption logs 5 and 14 (the model's choices). -/
def Obligations.ReadArrivalKeepsItsNotices : Prop :=
  ∀ (b : Nat) (s : State) (r : ReadBurst), PortFree b s → r.wf = true →
    ∀ c ∈ [Instr.resultReadNotice (.arrive r), .consumptionNotice (.arrive r), .imageRead (.arrive r)],
      (readHeld s.tp.queue r = true → exec c s = .next { s with tp := { s.tp with upstream := [.read r] } }) ∧
      (readHeld s.tp.queue r = false → ∃ ofResult cells slots,
        exec c s = .next { s with
          tp := { s.tp with outstanding := s.tp.outstanding ++ [.read r ofResult cells slots] }
          ports := { s.ports with down := s.ports.down ++ [.read r] } } ∧
        (s.tp.resultArea = none → ofResult = false ∧ cells = []) ∧
        (∀ area, s.tp.resultArea = some area → area % 16384 = 0 →
          (ofResult = true ↔ ∃ i j : Nat, j < 8 ∧ (r.lanes.getD i 0).getLsbD j = true ∧
            area ≤ r.addr.toNat + 8 * i + j ∧ r.addr.toNat + 8 * i + j < area + 16384) ∧
          ∀ x : Fin 512, x ∈ cells ↔ ∃ i j : Nat, j < 8 ∧ (r.lanes.getD i 0).getLsbD j = true ∧
            area + 32 * x.val + 28 ≤ r.addr.toNat + 8 * i + j ∧ r.addr.toNat + 8 * i + j < area + 32 * x.val + 32) ∧
        ∀ n : Fin 64, n ∈ slots ↔ ∃ i j : Nat, j < 8 ∧ (r.lanes.getD i 0).getLsbD j = true ∧
          b + 0x800 + 32 * n.val + 28 ≤ r.addr.toNat + 8 * i + j ∧ r.addr.toNat + 8 * i + j < b + 0x800 + 32 * n.val + 32)

/-- R68, R116, R125, R140, R142, R166. A read is answered: OKAY clears the unread flag of exactly its cells and the occupied mark of
exactly its slots, the occupancy and ATTN following, and its data goes upstream through the Image Patcher beat by beat;
ERROR gives no notice, a read that passed as a read of the result area returns no data, wherever the area now stands, and the
data of any other goes upstream as memory gave it. It rests on assumption logs 5, 14, 22 and 28 (the model's choices). -/
def Obligations.ReadAnswerGivesItsNotices : Prop :=
  (∀ marks : Vector Bool 64, countMarks marks = (List.finRange 64).countP fun n => marks[n]) ∧
  (∀ (s : State) (k : Nat) (r : ReadBurst) (ofResult : Bool) (cells : List (Fin 512)) (slots : List (Fin 64))
      (data : List (BitVec 64)),
    s.resetLow = false → s.tp.outstanding[k]? = some (.read r ofResult cells slots) → data.length = r.lanes.length →
    s.ra.occupancy = countMarks s.ra.marks → s.ra.attn = decide (0 < s.ra.occupancy) →
    (∀ c ∈ [Instr.resultReadNotice (.answer k .okay data), .consumptionNotice (.answer k .okay data),
        .imageRead (.answer k .okay data)], ∃ t beats, exec c s = .next t ∧
      { t with tp := s.tp, table := s.table, ra := s.ra, ports := s.ports } = s ∧
      t.tp = { s.tp with outstanding := s.tp.outstanding.eraseIdx k } ∧
      (∀ x : Fin 512, t.table.cell x = if x ∈ cells then { s.table.cell x with unread := false } else s.table.cell x) ∧
      (∀ n : Fin 64, t.ra.marks[n] = (s.ra.marks[n] && !decide (n ∈ slots))) ∧
      t.ra.occupancy = countMarks t.ra.marks ∧ t.ra.attn = decide (0 < t.ra.occupancy) ∧
      { t.ra with marks := s.ra.marks, occupancy := s.ra.occupancy, attn := s.ra.attn } = s.ra ∧
      t.ports = { s.ports with up := s.ports.up ++ [.readReply r .okay beats] } ∧ beats.length = r.lanes.length ∧
      ∀ i : Nat, i < r.lanes.length →
        beats[i]? = some { data := substituteBeat s.ip (firstBeat r.addr + 8 * i) (data.getD i 0), lanes := r.lanes.getD i 0 })) ∧
  ∀ (s : State) (k : Nat) (r : ReadBurst) (ofResult : Bool) (cells : List (Fin 512)) (slots : List (Fin 64))
      (data : List (BitVec 64)),
    s.resetLow = false → s.tp.outstanding[k]? = some (.read r ofResult cells slots) → data.length ≤ r.lanes.length →
    ∀ c ∈ [Instr.resultReadNotice (.answer k .error data), .consumptionNotice (.answer k .error data),
        .imageRead (.answer k .error data)], ∃ beats, exec c s = .next { s with
        tp := { s.tp with outstanding := s.tp.outstanding.eraseIdx k }
        ports := { s.ports with up := s.ports.up ++ [.readReply r .error beats] } } ∧
      (ofResult = true → beats = []) ∧
      (ofResult = false → beats = List.zipWith (fun d l => { data := d, lanes := l }) data r.lanes)

/-- R156, R158, R164, R166. A write of which no word that it writes lies in a window a block watches arrives at a free port: no
block changes, and it passes downstream as written, unless it overlaps queued records, when it is held until the last of
them has been answered. A transaction that arrives behind another waits behind it. A write is answered: the response goes
upstream unchanged. It rests on assumption logs 5, 13 and 16 (the model's choices). -/
def Obligations.WritePassesThroughUnchanged : Prop :=
  (∀ (b : Nat) (s : State) (w : WriteBurst), PortFree b s → w.wf = true →
    (∀ x ∈ burstWords w, x.enables ≠ 0 → OutsideWindows b s x.addr) →
    (QueueClear s.tp.queue w.addr.toNat (8 * w.beats.length) →
      ∀ c ∈ [Instr.captureWrite w, .mailboxWrite w, .imageWrite w, .upstreamWrite (.arrive w)],
        exec c s = .next (passed w.addr.toNat (burstWords w) s)) ∧
    ∀ c ∈ [Instr.captureWrite w, .mailboxWrite w, .imageWrite w, .upstreamWrite (.arrive w)],
      ∃ hold, Held s.tp.queue (burstWords w) 0 hold ∧
        exec c s = .next (passedOrHeld hold w.addr.toNat (burstWords w) s)) ∧
  (∀ (s : State) (w : WriteBurst) (r : ReadBurst), s.resetLow = false → s.tp.upstream ≠ [] →
    (∀ c ∈ [Instr.captureWrite w, .mailboxWrite w, .imageWrite w, .upstreamWrite (.arrive w)],
      exec c s = .next { s with tp := { s.tp with upstream := s.tp.upstream ++ [.write (newWrite w)] } }) ∧
    ∀ c ∈ [Instr.resultReadNotice (.arrive r), .consumptionNotice (.arrive r), .imageRead (.arrive r)],
      exec c s = .next { s with tp := { s.tp with upstream := s.tp.upstream ++ [.read r] } }) ∧
  ∀ (s : State) (k a : Nat) (r : Response), s.resetLow = false → s.tp.outstanding[k]? = some (.write a) →
    exec (.upstreamWrite (.answer k r)) s = .next { s with
      tp := { s.tp with outstanding := s.tp.outstanding.eraseIdx k }
      ports := { s.ports with up := s.ports.up ++ [.writeReply a r] } }

/-- R147, R148, R164, R165. MAILBOX_WRITE at a free port. Without a full go word: a full write of word 0 to 6 is latched and its mark set,
a partial one clears the mark and leaves the latch, a word with no byte enables set is passed over, a partial write of word 7
does nothing, the count and the holder stay, and the write passes on to memory as written or is held behind the records it
overlaps, its words taken all the same; it may go beyond the mailbox where no block watches. With a full go word, the part
ready for it: its other words are latched so, and it then does what that go word alone does. A write that runs on from its go
word in the control region is held by the records these words overlap, at offsets 0x020 to 0x03F behind the outcome record
its own go word queued; with the insertion queue full it is stalled at its go word, the words after it not yet taken. It rests on assumption logs 12, 13 and 16 (the model's choices). -/
def Obligations.MailboxWriteLatchesWords : Prop :=
  ∀ (b : Nat) (s : State) (w : WriteBurst), w.wf = true →
    let latches := fun dd : DirectiveDecoder =>
      { dd with latch := s.dd.latch, marks := s.dd.marks } = s.dd ∧
      ∀ n : Fin 7,
        (∀ x ∈ burstWords w, x.addr = b + 4 * n.val → x.enables = 0xF → dd.latch[n] = x.data ∧ dd.marks[n] = true) ∧
        (∀ x ∈ burstWords w, x.addr = b + 4 * n.val → x.enables ≠ 0xF → x.enables ≠ 0 →
          dd.latch[n] = s.dd.latch[n] ∧ dd.marks[n] = false) ∧
        ((∀ x ∈ burstWords w, x.addr = b + 4 * n.val → x.enables = 0) →
          dd.latch[n] = s.dd.latch[n] ∧ dd.marks[n] = s.dd.marks[n])
    (PortFree b s → (∀ x ∈ burstWords w, x.enables ≠ 0 → (b ≤ x.addr ∧ x.addr < b + 32) ∨ OutsideWindows b s x.addr) →
      (∀ x ∈ burstWords w, x.addr = b + 28 → x.enables ≠ 0xF) →
      ∃ t hold, exec (.mailboxWrite w) s = .next t ∧ Held s.tp.queue (burstWords w) 0 hold ∧
        { t with dd := s.dd } = passedOrHeld hold w.addr.toNat (burstWords w) s ∧ latches t.dd) ∧
    (∀ go : Word, DirectiveReady b s → (∀ x ∈ burstWords w, x.enables ≠ 0 → b ≤ x.addr ∧ x.addr < b + 32) →
      (∃ x ∈ burstWords w, x.addr = b + 28 ∧ x.enables = 0xF ∧ x.data = go) →
      ∃ dd u, latches dd ∧ exec (.unknownKind go) { s with dd := dd } = .next u ∧
        exec (.mailboxWrite w) s = .next { u with
          tp := { u.tp with outstanding := s.tp.outstanding ++ [.write w.addr.toNat] }
          ports := { s.ports with down := s.ports.down ++ [.write w.addr.toNat (burstWords w)] } }) ∧
    ∀ (before after : List WordWrite) (go : WordWrite), PortFree b s → QueueClear s.tp.queue b 32 → s.dd.holder = none →
      WindowInv s → burstWords w = before ++ go :: after → go.addr = b + 28 → go.enables = 0xF →
      (∀ x ∈ before ++ after, x.enables ≠ 0 → b ≤ x.addr ∧ x.addr < b + 4096) →
      ∃ dd u, latches dd ∧ exec (.unknownKind go.data) { s with dd := dd } = .next u ∧
        (s.tp.queue.length < 16 → ∃ hold, Held u.tp.queue after 0 hold ∧
          ((∃ x ∈ after, x.enables ≠ 0 ∧ x.addr < b + 64) → hold = u.tp.queue.length) ∧
          exec (.mailboxWrite w) s = .next (passedOrHeld hold w.addr.toNat (burstWords w) { u with
            tp := { u.tp with outstanding := s.tp.outstanding }, ports := s.ports })) ∧
        (16 ≤ s.tp.queue.length → exec (.mailboxWrite w) s = .next { u with
          tp := { u.tp with upstream := [.write { addr := w.addr.toNat, taken := before ++ [go], todo := after, run := none
                                                  hold := 0, stall := some .outcome }] } })

/-- R120, R124, R127, R128, R164. IMAGE_WRITE inside the window, at a free port, over a map whose LIVE entries have baselines and whose
16-bit fields lie at even offsets: each entry is judged by the bytes the write carries for its field, the adjustment stays
the sum of R124, the image state and the window stay, and the write passes on to memory as written or is held
behind the records it overlaps. It rests on assumption logs 13 and 16 (the model's choices). -/
def Obligations.ImageWriteKeepsBaselinesAndAdjustment : Prop :=
  ∀ (b : Nat) (s : State) (w : WriteBurst) (win : ImageWindow), PortFree b s → WindowInv s → ImageInv s →
    w.wf = true → s.ip.window = some win →
    (∀ x ∈ burstWords w, x.enables ≠ 0 → win.base ≤ x.addr ∧ x.addr < win.base + win.length) →
    ∃ t hold, exec (.imageWrite w) s = .next t ∧ Held s.tp.queue (burstWords w) 0 hold ∧
      { t with ip := s.ip } = passedOrHeld hold w.addr.toNat (burstWords w) s ∧
      { t.ip with map := s.ip.map, adjustment := s.ip.adjustment } = s.ip ∧
      t.ip.map = s.ip.map.map (fun e => judgedEntry w (win.base + e.offset) e) ∧
      (t.ip.adjustment : Int) = termSum t.ip.map % 65536

/-- R125, R126. The data of a read as it goes upstream, byte by byte. Unless the image is PUBLISHED it is as memory gave it. While
it is PUBLISHED a byte outside the window is as memory gave it, a byte of the checksum word is that of the stored word plus
the adjustment modulo 65536, a byte of a LIVE entry is that of its frozen value, and every other byte is memory's. -/
def Obligations.ReturnedBytesAreSubstituted : Prop :=
  ∀ (ip : ImagePatcher) (a : Nat) (d : BitVec 64), a % 8 = 0 →
    (ip.state ≠ .published ∨ ip.window = none → substituteBeat ip a d = d) ∧
    ∀ (w : ImageWindow) (i : Nat), ip.state = .published → ip.window = some w → i < 8 → w.base % 64 = 0 →
      w.checksum % 2 = 0 →
      let byte := ((substituteBeat ip a d).extractLsb' (8 * i) 8).toNat
      let memory := (d.extractLsb' (8 * i) 8).toNat
      let o := a + i - w.base
      let holds := fun e : PatchEntry => e.offset ≤ o ∧ o < e.offset + e.width / 8
      (a + i < w.base ∨ w.base + w.length ≤ a + i → byte = memory) ∧
      (w.base ≤ a + i → a + i < w.base + w.length →
        (o / 2 * 2 = w.checksum →
          let stored := (d.extractLsb' (8 * (i / 2 * 2)) 16).toNat
          byte = (stored + ip.adjustment) % 65536 / 256 ^ (i % 2) % 256) ∧
        (o / 2 * 2 ≠ w.checksum →
          (∀ e ∈ ip.map, ∀ frozen, e.state = .live frozen → holds e → (∀ x ∈ ip.map, x.isLive = true → holds x → x = e) →
            byte = frozen / 256 ^ (o - e.offset) % 256) ∧
          ((∀ e ∈ ip.map, e.isLive = true → ¬ holds e) → byte = memory)))

/-! ## Wedge frames (chapter 1) -/

/-- R10, R12. The grade of a frame by the conditions of R10 in their order, with its offset and region, and its zone: for a
valid track the greatest zone whose first track is not above it, for an invalid one 31 with the zone-unknown flag. The WEAK
test reads the exact sum, whatever its size: that rests on assumption log 26 (the model's choice). -/
def Obligations.FrameIsGradedAndZoned : Prop :=
  ∀ (fr : FrameReducer) (floor signal : Nat) (f : FrameRecord), GeometryInv fr →
    let r := reduceFrame fr floor signal f
    let x := burstSums f floor
    (fr.heads ≤ f.head.val → r = { offset := 0, region := .normal, grade := .foreign, zone := 31, zoneUnknown := true, signalSum := 0 }) ∧
    (f.head.val < fr.heads →
      r.signalSum = x.sn + x.sq ∧
      r.grade = (if f.markFound = false ∨ f.trackValid = false ∨ fr.wpr ≤ f.wedge ∨ (x.sn = 0 ∧ x.sq = 0) then .void
        else if rawOffset x = 512 then .clamped else if x.sn + x.sq < signal then .weak else .good) ∧
      (r.grade = .void → r.offset = 0 ∧ r.region = .normal) ∧
      (r.grade = .clamped → r.offset = 511 ∧ r.region = .quadrature) ∧
      (r.grade = .weak ∨ r.grade = .good → r.offset = rawOffset x ∧ r.region = chooseRegion x) ∧
      (f.trackValid = false → r.zone = 31 ∧ r.zoneUnknown = true) ∧
      (f.trackValid = true → r.zoneUnknown = false ∧ r.zone.val < fr.zoneCount ∧
        fr.zones.getD r.zone.val 0 ≤ f.track ∧
        ∀ z : Nat, r.zone.val < z → z < fr.zoneCount → f.track < fr.zones.getD z 0))

/-- R15 and R16, on the figures of R13 and the region of R14. The track-offset arithmetic: the floored differences and sums, the
region by the sums and the cross products, the offset of each region rounded to nearest with halves away from zero, and its
range. -/
def Obligations.TrackOffsetFollowsTheArithmetic : Prop :=
  ∀ (f : FrameRecord) (floor : Nat),
    let x := burstSums f floor
    (x.n = max 0 ((f.burstA : Int) - floor) - max 0 ((f.burstB : Int) - floor) ∧
      x.q = max 0 ((f.burstC : Int) - floor) - max 0 ((f.burstD : Int) - floor) ∧
      (x.sn : Int) = max 0 ((f.burstA : Int) - floor) + max 0 ((f.burstB : Int) - floor) ∧
      (x.sq : Int) = max 0 ((f.burstC : Int) - floor) + max 0 ((f.burstD : Int) - floor)) ∧
    (f.burstA ≤ 65535 → f.burstB ≤ 65535 → (256 * x.n).natAbs ≤ 16776960) ∧
    (x.sn = 0 → x.sq ≠ 0 → chooseRegion x = .quadrature) ∧
    (x.sq = 0 → x.sn ≠ 0 → chooseRegion x = .normal) ∧
    (x.sn ≠ 0 → x.sq ≠ 0 → (chooseRegion x = .normal ↔ x.n.natAbs * x.sq ≤ x.q.natAbs * x.sn)) ∧
    (chooseRegion x = .normal → x.sn ≠ 0 →
      IsRound (rawOffset x) (256 * x.n) x.sn ∧ -256 ≤ rawOffset x ∧ rawOffset x ≤ 256) ∧
    (chooseRegion x = .quadrature → x.sq ≠ 0 → ∃ r : Int, IsRound r (256 * x.q) x.sq ∧ -256 ≤ r ∧ r ≤ 256 ∧
      rawOffset x = (if 0 ≤ x.n then 256 - r else -(256 - r)) ∧ -512 ≤ rawOffset x ∧ rawOffset x ≤ 512 ∧
      (x.sn = 0 → x.n = 0 ∧ 0 ≤ rawOffset x))

/-- R2 to R4, R9, R18 to R21, R165, R168. CAPTURE_WRITE of a frame at a free port, in one burst with every byte enable set or full word by
full word: words 0 to 4 are latched and go on as written; word 5 carries the reduction and the follow state the frame would
leave, word 6 the Sweep Controller's answer, each as its block stands at that word, word 7 the signal sum, a free value above
131070, and the count g that completion found; and no frame is left. Completion is the judgement of the Follow Monitor, with NO LOCK, then the Sweep
Controller's, then the bad-wedge count, and nothing for a FOREIGN frame. A frame whose close finds the insertion queue full
has completed, and its write is stalled until the record has entered. The three words have the fields of section 11.1 at
their bits and every other bit 0. It rests on assumption logs 12, 16, 17 and 26 (the model's choices). -/
def Obligations.WholeFrameIsAnnotatedAndCompleted : Prop :=
  let complete := fun (s : State) (f : FrameRecord) (r : Reduction) =>
    if r.grade = .foreign then (s, 0) else s.completeSeen f r
  let answer5 := fun (s : State) (f : FrameRecord) (r : Reduction) =>
    if r.grade = .foreign then .unseen else answerFollow s.fr.wpr s.fr.gapLimit s.fm (seenFrame f r)
  (∀ (b : Nat) (s : State) (ring : CaptureRing) (slot : Nat) (d0 d1 d2 d3 d4 d5 d6 d7 : Word), PortFree b s → WindowInv s →
    s.tp.captureRing = some ring → slot < ring.slots → s.fr.frame = none →
    QueueClear s.tp.queue (ring.base + 32 * slot) 32 →
    let a := ring.base + 32 * slot
    let w : WriteBurst :=
      { addr := BitVec.ofNat 32 a
        beats := [{ data := d1 ++ d0, lanes := 0xFF }, { data := d3 ++ d2, lanes := 0xFF },
                  { data := d5 ++ d4, lanes := 0xFF }, { data := d7 ++ d6, lanes := 0xFF }] }
    let head : Fin 16 := (d0.extractLsb' 0 4).toFin
    let five : FrameRecord :=
      { slot := slot, expects := 5, head := head
        wedge := (d0.extractLsb' 4 10).toNat, markFound := d0.getLsbD 15
        track := (d1.extractLsb' 0 24).toNat, trackValid := d1.getLsbD 31
        burstA := (d2.extractLsb' 0 16).toNat, burstB := (d2.extractLsb' 16 16).toNat
        burstC := (d3.extractLsb' 0 16).toNat, burstD := (d3.extractLsb' 16 16).toNat
        amplitude := (d4.extractLsb' 0 16).toNat, reduction := none, shown := .unseen }
    let r := reduceFrame s.fr (s.fm.record head).floor (s.fm.record head).signal five
    let shown := answer5 s five r
    let answer := answerSweep s.sc s.tsm.spindle head r shown
    let seven : FrameRecord := { five with expects := 7, reduction := some r, shown := shown }
    let done := complete { s with fr := { s.fr with frame := some seven } } seven r
    let ended : State := { done.1 with fr := { done.1.fr with frame := none } }
    let words : List WordWrite :=
      List.zipWith (fun i x => { addr := a + 4 * i, data := x, enables := 0xF }) (List.range 8)
        [d0, d1, d2, d3, d4, annotation5 r shown, annotation6 answer.1 answer.2.1 answer.2.2, annotation7 r.signalSum done.2]
    (done.1.sc.holder = none ∨ s.sc.holder ≠ none → exec (.captureWrite w) s = .next { ended with
      tp := { ended.tp with outstanding := ended.tp.outstanding ++ [.write a] }
      ports := { s.ports with down := s.ports.down ++ [.write a words] } }) ∧
    (done.1.sc.holder ≠ none → s.sc.holder = none → exec (.captureWrite w) s = .next { ended with
      tp := { ended.tp with upstream := [.write
        { addr := a, taken := words, todo := [], run := some { slot := slot, counted := false }, hold := 0
          stall := some .result }] } })) ∧
  (∀ (b : Nat) (s : State) (ring : CaptureRing) (f : FrameRecord) (other d : Word), PortFree b s → WindowInv s →
    s.tp.captureRing = some ring → f.slot < ring.slots → s.fr.frame = some f →
    QueueClear s.tp.queue (ring.base + 32 * f.slot) 32 →
    let a := ring.base + 32 * f.slot
    let w := wordBurst a f.expects other d
    let on := fun (x : Word) (u : State) => { u with
      tp := { u.tp with outstanding := u.tp.outstanding ++ [.write (a + 8 * (f.expects / 2))] }
      ports := { s.ports with
        down := s.ports.down ++ [.write (a + 8 * (f.expects / 2)) (burstWords (wordBurst a f.expects other x))] } }
    let keeps := fun g : FrameRecord => ({ s with fr := { s.fr with frame := some g } } : State)
    (f.expects = 1 → exec (.captureWrite w) s = .next (on d (keeps { f with
      track := (d.extractLsb' 0 24).toNat, trackValid := d.getLsbD 31, expects := 2 }))) ∧
    (f.expects = 2 → exec (.captureWrite w) s = .next (on d (keeps { f with
      burstA := (d.extractLsb' 0 16).toNat, burstB := (d.extractLsb' 16 16).toNat, expects := 3 }))) ∧
    (f.expects = 3 → exec (.captureWrite w) s = .next (on d (keeps { f with
      burstC := (d.extractLsb' 0 16).toNat, burstD := (d.extractLsb' 16 16).toNat, expects := 4 }))) ∧
    (f.expects = 4 → exec (.captureWrite w) s = .next (on d (keeps { f with
      amplitude := (d.extractLsb' 0 16).toNat, expects := 5 }))) ∧
    (f.expects = 5 →
      let r := reduceFrame s.fr (s.fm.record f.head).floor (s.fm.record f.head).signal f
      let shown := answer5 s f r
      exec (.captureWrite w) s = .next (on (annotation5 r shown) (keeps { f with
        reduction := some r, shown := shown, expects := 6 }))) ∧
    (∀ r, f.expects = 6 → f.reduction = some r →
      let answer := answerSweep s.sc s.tsm.spindle f.head r f.shown
      exec (.captureWrite w) s = .next (on (annotation6 answer.1 answer.2.1 answer.2.2) (keeps { f with expects := 7 }))) ∧
    (∀ r, f.expects = 7 → f.reduction = some r →
      let done := complete s f r
      let ended : State := { done.1 with fr := { done.1.fr with frame := none } }
      (done.1.sc.holder = none ∨ s.sc.holder ≠ none →
        exec (.captureWrite w) s = .next (on (annotation7 r.signalSum done.2) ended)) ∧
      (done.1.sc.holder ≠ none → s.sc.holder = none → exec (.captureWrite w) s = .next { ended with
        tp := { ended.tp with upstream := [.write
          { addr := a + 24, taken := burstWords (wordBurst a 7 other (annotation7 r.signalSum done.2)), todo := []
            run := some { slot := f.slot, counted := false }, hold := 0, stall := some .result }] } }))) ∧
  (∀ (s : State) (f : FrameRecord) (r : Reduction),
    let judged := followFrame s.fr.wpr s.fr.gapLimit s.fm (seenFrame f r)
    let led : State := { s with
      fm := judged.fm
      ra := if judged.noLock then s.ra.raise .noLock { place := none, a := 2 ^ f.head.val, b := 0 } else s.ra }
    let swept := led.sweepFrame
      { head := f.head, reduction := r, amplitude := f.amplitude, follow := (judged.fm.record f.head).state
        missed := judged.missed, slip := judged.slip }
    s.completeSeen f r =
      (if s.fr.wpr ≤ f.wedge then { swept with
          fr := { swept.fr with badWedge := min 65535 (swept.fr.badWedge + 1) }
          ra := swept.ra.raise .frameFault { place := none, a := 0, b := 0 } }
        else swept, judged.gap)) ∧
  (∀ (f : FrameRecord) (r : Reduction), seenFrame f r =
    { head := f.head, wedge := f.wedge, markFound := f.markFound, track := f.track, trackValid := f.trackValid
      grade := r.grade, offset := r.offset }) ∧
  ([Region.normal, .quadrature].map Region.code = [0, 1] ∧
    [Grade.good, .weak, .clamped, .void, .foreign].map Grade.code = [0, 1, 2, 3, 4] ∧
    [FollowState.unseen, .dormant, .acquiring, .settling, .following, .slipped].map FollowState.code = [0, 1, 2, 3, 4, 5] ∧
    [SweepState.idle, .armed, .awaitHead, .measuring].map SweepState.code = [0, 1, 2, 3]) ∧
  (∀ (r : Reduction) (follow : FollowState), -512 ≤ r.offset → r.offset ≤ 511 →
    let w := annotation5 r follow
    (w.extractLsb' 0 10).toInt = r.offset ∧ (w.extractLsb' 10 1).toNat = r.region.code ∧
    (w.extractLsb' 11 3).toNat = r.grade.code ∧ (w.extractLsb' 14 3).toNat = follow.code ∧
    (w.extractLsb' 17 5).toNat = r.zone.val ∧ w.getLsbD 22 = r.zoneUnknown ∧ w.extractLsb' 23 9 = 0) ∧
  (∀ (accepted : Bool) (n : Nat) (state : SweepState), n ≤ 4096 →
    let w := annotation6 accepted n state
    (w.extractLsb' 0 13).toNat = n ∧ w.extractLsb' 13 3 = 0 ∧ w.getLsbD 16 = accepted ∧ w.getLsbD 17 = false ∧
    (w.extractLsb' 18 2).toNat = state.code ∧ w.extractLsb' 20 12 = 0) ∧
  ∀ signalSum gap : Nat, gap ≤ 1023 →
    let w := annotation7 signalSum gap
    (signalSum ≤ 131070 → (w.extractLsb' 0 17).toNat = signalSum) ∧
    (w.extractLsb' 17 10).toNat = gap ∧ w.extractLsb' 27 5 = 0

/-- R2, R3, R5, R6, R8. Words of a capture slot that do not continue a frame, at a free port. One word a write: without a frame
any word but a full word 0 is a stray; with a frame in the slot a partial write, or a full write of a word 1 to 7 that is not
the expected one, tears it; a full word 0 starts a frame, a present one being torn; a stray of another slot leaves the frame.
A write of one slot run: strays, however many, count one torn and raise FRAME FAULT once; a word that tears counts one, and
the rest of the run adds nothing; both pass as written. A write that begins with a full word 0 over a present frame does what
it does without the frame, once that is counted torn. A write of any words of the ring is its parts taken one after the
other, where each further slot run counts for itself, and a slot run may be parted where its frame is still assembling. The
parts leave one write outstanding in place of two, and whatever a record that enters takes from the reads sent before. It
rests on assumption log 16 (the model's choice). -/
def Obligations.TornAndStrayWordsAreCounted : Prop :=
  (∀ (b : Nat) (s : State) (ring : CaptureRing) (slot n : Nat) (upper lower : Word) (lanes : BitVec 8),
    PortFree b s → WindowInv s → s.tp.captureRing = some ring → slot < ring.slots → n < 8 →
    QueueClear s.tp.queue (ring.base + 32 * slot) 32 →
    let w : WriteBurst :=
      { addr := BitVec.ofNat 32 (ring.base + 32 * slot + 8 * (n / 2)), beats := [{ data := upper ++ lower, lanes := lanes }] }
    let mine := lanes.extractLsb' (4 * (n % 2)) 4
    let data := if n % 2 = 0 then lower else upper
    let full := mine = 0xF
    mine ≠ 0 → lanes.extractLsb' (4 - 4 * (n % 2)) 4 = 0 →
    let on := passed (ring.base + 32 * slot + 8 * (n / 2)) (burstWords w) s
    let torn := s.ra.raise .frameFault { place := none, a := 0, b := 0 }
    let fresh : FrameRecord :=
      { slot := slot, expects := 1, head := (data.extractLsb' 0 4).toFin, wedge := (data.extractLsb' 4 10).toNat
        markFound := data.getLsbD 15, track := 0, trackValid := false, burstA := 0, burstB := 0, burstC := 0, burstD := 0
        amplitude := 0, reduction := none, shown := .unseen }
    (full → n = 0 → s.fr.frame = none →
      exec (.captureWrite w) s = .next { on with fr := { s.fr with frame := some fresh } }) ∧
    (full → n = 0 → s.fr.frame ≠ none → exec (.captureWrite w) s = .next { on with
      fr := { s.fr with frame := some fresh, torn := min 65535 (s.fr.torn + 1) }, ra := torn }) ∧
    (¬ (full ∧ n = 0) → (∀ f, s.fr.frame = some f → f.slot ≠ slot) → exec (.captureWrite w) s = .next { on with
      fr := { s.fr with torn := min 65535 (s.fr.torn + 1) }, ra := torn }) ∧
    ∀ f, s.fr.frame = some f → f.slot = slot → ¬ (full ∧ n = 0) → ¬ (full ∧ n = f.expects) →
      exec (.captureWrite w) s = .next { on with
        fr := { s.fr with frame := none, torn := min 65535 (s.fr.torn + 1) }, ra := torn }) ∧
  (∀ (b : Nat) (s : State) (ring : CaptureRing) (slot : Nat) (w : WriteBurst),
    PortFree b s → WindowInv s → s.tp.captureRing = some ring → slot < ring.slots → w.wf = true →
    let a := ring.base + 32 * slot
    let counted := fun frame : Option FrameRecord => ({ s with
      fr := { s.fr with frame := frame, torn := min 65535 (s.fr.torn + 1) }
      ra := s.ra.raise .frameFault { place := none, a := 0, b := 0 } } : State)
    (QueueClear s.tp.queue a 32 → (∀ x ∈ burstWords w, x.enables ≠ 0 → a ≤ x.addr ∧ x.addr < a + 32) →
      ((∃ x ∈ burstWords w, x.enables ≠ 0) → (∀ x ∈ burstWords w, x.addr = a → x.enables ≠ 0xF) →
        (∀ f, s.fr.frame = some f → f.slot ≠ slot) →
        exec (.captureWrite w) s = .next (passed w.addr.toNat (burstWords w) (counted s.fr.frame))) ∧
      ∀ (f : FrameRecord) (before after : List WordWrite) (x : WordWrite), s.fr.frame = some f → f.slot = slot →
        burstWords w = before ++ x :: after → (∀ y ∈ before, y.enables = 0) → x.enables ≠ 0 →
        ¬ (x.enables = 0xF ∧ (x.addr = a ∨ x.addr = a + 4 * f.expects)) →
        exec (.captureWrite w) s = .next (passed w.addr.toNat (burstWords w) (counted none))) ∧
    ∀ (before after : List WordWrite) (x : WordWrite), s.fr.frame ≠ none → burstWords w = before ++ x :: after →
      (∀ y ∈ before, y.enables = 0) → x.addr = a → x.enables = 0xF →
      exec (.captureWrite w) s = exec (.captureWrite w) (counted none)) ∧
  ∀ (b : Nat) (s t u : State) (ring : CaptureRing) (w w1 w2 : WriteBurst) (first second words1 words2 : List WordWrite),
    PortFree b s → WindowInv s → s.tp.captureRing = some ring → w.wf = true → w1.wf = true → w2.wf = true →
    (∀ x ∈ burstWords w, x.enables ≠ 0 → ring.base ≤ x.addr ∧ x.addr < ring.base + 32 * ring.slots) →
    let slotOf := fun x : WordWrite => (x.addr - ring.base) / 32
    let written := fun l : List WordWrite => l.filter fun x => x.enables ≠ 0
    burstWords w = first ++ second →
    written (burstWords w1) = written first → written (burstWords w2) = written second →
    exec (.captureWrite w1) s = .next t → t.ports.down = s.ports.down ++ [.write w1.addr.toNat words1] →
    exec (.captureWrite w2) { t with tp := { t.tp with outstanding := t.tp.outstanding.dropLast }, ports := s.ports } = .next u →
    u.ports.down = s.ports.down ++ [.write w2.addr.toNat words2] →
    (∀ x ∈ written first, ∀ y ∈ written second, slotOf x = slotOf y → ∃ f, t.fr.frame = some f ∧ f.slot = slotOf y) →
    ∃ words, exec (.captureWrite w) s = .next { u with
        tp := { u.tp with outstanding := u.tp.outstanding.dropLast ++ [.write w.addr.toNat] }
        ports := { s.ports with down := s.ports.down ++ [.write w.addr.toNat words] } } ∧
      words.map (fun x => (x.addr, x.enables)) = (burstWords w).map (fun x => (x.addr, x.enables)) ∧
      ∀ x ∈ words, x ∈ if x.enables = 0 then burstWords w else words1 ++ words2

/-! ## Head following (chapter 2) -/

/-- R28 to R31. The entry checks of a frame: a head switch, a seek, a wedge gap, or none of them; what each does to the records, to
the active head and to the last-frame record; and the counts handed on. -/
def Obligations.EntryChecksFindSwitchSeekAndGap : Prop :=
  ∀ (wpr gapLimit : Nat) (fm : FollowMonitor) (x : FrameSeen), 1 ≤ wpr →
    let e := entryChecks wpr gapLimit fm x
    let acquired := fun r : FollowRecord =>
      { r with state := .acquiring, run := 0, acquire := 0, noLockRaised := false, history := { r.history with acquiring := true } }
    let seek := x.trackValid = true ∧ ∃ t, fm.last.track = some t ∧ t ≠ x.track
    (fm.active ≠ some x.head →
      (e.gap = 0 ∧ e.missed = 0) ∧
      { e.fm with records := fm.records } =
        { fm with active := some x.head, last := { head := some x.head, track := none, wedge := none } } ∧
      ∀ h : Fin 16, e.fm.record h = if h = x.head then acquired (fm.record h)
        else if fm.active = some h then { fm.record h with state := .dormant } else fm.record h) ∧
    (fm.active = some x.head → seek →
      (e.gap = 0 ∧ e.missed = 0) ∧ { e.fm with records := fm.records } = fm ∧
      ∀ h : Fin 16, e.fm.record h = if h = x.head then acquired (fm.record h) else fm.record h) ∧
    (fm.active = some x.head → ¬ seek → x.grade = .void ∨ fm.last.wedge = none →
      e = { fm := fm, gap := 0, missed := 0 }) ∧
    ∀ last, fm.active = some x.head → ¬ seek → x.grade ≠ .void → fm.last.wedge = some last →
      ((e.gap : Int) = ((x.wedge : Int) - last - 1) % wpr ∧ e.gap < wpr) ∧
      (e.gap ≤ gapLimit → e.missed = e.gap ∧ e.fm = fm) ∧
      (gapLimit < e.gap → e.missed = 0 ∧ { e.fm with records := fm.records } = fm ∧
        ∀ h : Fin 16, e.fm.record h = if h = x.head then acquired (fm.record h) else fm.record h)

/-- R18, R27, R32 to R38. The judgement of a frame after its entry checks: the follow state, the run count, the acquire count, NO LOCK,
the history set and the slip by the state the checks left; the floors, the window and every other record kept; and the
last-frame record brought up to date. The answer for word 5, asked of the same state, is the state the frame leaves (R18). That
NO LOCK asks for the state after the judgement rests on assumption log 27 (the model's choice). -/
def Obligations.FrameIsJudgedInItsFollowState : Prop :=
  ∀ (wpr gapLimit : Nat) (fm : FollowMonitor) (x : FrameSeen),
    let e := entryChecks wpr gapLimit fm x
    let r := e.fm.record x.head
    let a := followFrame wpr gapLimit fm x
    let t := a.fm.record x.head
    let inside := x.grade = .good ∧ x.offset.natAbs ≤ r.window
    let run := min 255 (r.run + 1)
    let fell := r.state = .settling ∧ ¬ inside
    let acquire := if fell then 0 else r.acquire
    let flag := if fell then false else r.noLockRaised
    let seeks := t.state = .acquiring ∨ t.state = .settling
    (r.state = .acquiring → inside → t.run = 1 ∧ t.state = if e.fm.settle ≤ 1 then .following else .settling) ∧
    (r.state = .acquiring → ¬ inside → t.run = 0 ∧ t.state = .acquiring) ∧
    (r.state = .settling → inside → t.run = run ∧ t.state = if e.fm.settle ≤ run then .following else .settling) ∧
    (fell → t.run = 0 ∧ t.state = .acquiring) ∧
    (r.state = .following → x.grade = .void ∨ (x.grade = .good ∧ ¬ inside) → t.run = 0 ∧ t.state = .slipped ∧ a.slip = true) ∧
    (r.state = .following → ¬ (x.grade = .void ∨ (x.grade = .good ∧ ¬ inside)) → t.run = r.run ∧ t.state = .following) ∧
    (r.state = .slipped → inside → t.run = run ∧ t.state = if e.fm.inhibit ≤ run then .following else .slipped) ∧
    (r.state = .slipped → ¬ inside → t.run = 0 ∧ t.state = .slipped) ∧
    (a.slip = true → r.state = .following ∧ t.state = .slipped) ∧
    (t.acquire = if seeks then min 4095 (acquire + 1) else acquire) ∧
    (a.noLock = true ↔ seeks ∧ e.fm.acquireLimit ≤ t.acquire ∧ flag = false) ∧
    (t.noLockRaised = true ↔ flag = true ∨ a.noLock = true) ∧
    (t.history.acquiring = true ↔ r.history.acquiring = true ∨ fell) ∧
    (t.history.settling = true ↔ r.history.settling = true ∨ (r.state = .acquiring ∧ inside)) ∧
    (t.history.following = true ↔ r.history.following = true ∨ (t.state = .following ∧ r.state ≠ .following)) ∧
    (t.history.slipped = true ↔ r.history.slipped = true ∨ a.slip = true) ∧
    (t.floor = r.floor ∧ t.signal = r.signal ∧ t.window = r.window) ∧
    (∀ h : Fin 16, h ≠ x.head → a.fm.record h = e.fm.record h) ∧
    { a.fm with records := e.fm.records, last := e.fm.last } = e.fm ∧
    a.fm.last = { e.fm.last with
      track := if x.trackValid then some x.track else e.fm.last.track
      wedge := if x.markFound = true ∧ x.wedge < wpr then some x.wedge else e.fm.last.wedge } ∧
    a.gap = e.gap ∧ a.missed = e.missed ∧ answerFollow wpr gapLimit fm x = t.state

/-! ## Sweeps and evaluation (chapters 5 and 6) -/

/-- R83 to R87, R90, R94, R100. A completed frame at the Sweep Controller: a frame that does not qualify opens nothing, and in
MEASURING adds its missed wedges and its slip if it is of the current head; a frame that qualifies enters the accumulator,
cleared first when it opens the cell; short of the quota the Sweep Controller then stands in MEASURING, and at the quota the
cell closes. The answer for word 6, asked of the same state: whether the frame qualifies, the count after it, and the state
it leaves. It rests on assumption log 12 (the model's choice). -/
def Obligations.QualifyingFramesAccumulate : Prop :=
  ∀ (s : State) (f : CompletedFrame),
    let q := (s.sc.state = .awaitHead ∨ s.sc.state = .measuring) ∧ s.sc.holder = none ∧ f.head = s.sc.currentHead ∧
      f.reduction.zoneUnknown = false ∧ f.reduction.zone = s.sc.zone ∧ f.reduction.grade = .good ∧ f.follow = .following ∧
      (s.sc.atSpeed = true → s.tsm.spindle = .atSpeed)
    let p := f.reduction.offset
    let weight := f.amplitude - s.sc.jogThreshold
    let start := if s.sc.state = .measuring then s.sc.acc else
      { n := 0, sumP := 0, sumP2 := 0, sumW := 0, sumWP := 0, least := none, greatest := none, missed := 0, slips := 0 }
    let missed := min 65535 (start.missed + f.missed)
    let slips := min 65535 (start.slips + if f.slip then 1 else 0)
    let gathered : State := { s with sc := { s.sc with
      state := .measuring
      acc :=
        { n := start.n + 1
          sumP := start.sumP + p
          sumP2 := start.sumP2 + p.natAbs ^ 2
          sumW := start.sumW + weight
          sumWP := start.sumWP + weight * p
          least := if weight = 0 then start.least else some (min (start.least.getD p) p)
          greatest := if weight = 0 then start.greatest else some (max (start.greatest.getD p) p)
          missed := missed
          slips := slips } } }
    let answer := answerSweep s.sc s.tsm.spindle f.head f.reduction f.follow
    (s.sc.state = .idle ∨ s.sc.state = .armed → s.sweepFrame f = s) ∧
    (s.sc.state = .awaitHead → ¬ q → s.sweepFrame f = s) ∧
    (s.sc.state = .measuring → ¬ q → f.head ≠ s.sc.currentHead → s.sweepFrame f = s) ∧
    (s.sc.state = .measuring → ¬ q → f.head = s.sc.currentHead →
      s.sweepFrame f = { s with sc := { s.sc with acc := { s.sc.acc with missed := missed, slips := slips } } }) ∧
    (q → start.n + 1 ≠ s.sc.quota → s.sweepFrame f = gathered) ∧
    (q → start.n + 1 = s.sc.quota → s.sweepFrame f = gathered.closeCell .quota) ∧
    (answer.1 = true ↔ q) ∧ (q → answer.2.1 = start.n + 1) ∧
    (¬ q → answer.2.1 = if s.sc.state = .measuring then s.sc.acc.n else 0) ∧
    answer.2.2 = (s.sweepFrame f).sc.state

/-- R64 to R67, R79, R82, R90, R91, R101 to R110, R163. A close: the figures of a quota close of each kind with their rounding and the outcome by the limits,
those of a SHORT and a NO_HEAD close, and what each outcome writes into the cell. On the whole state: the cell is written, the
result record is built from the sources of R107 and addressed to the cell's place, and the Sweep Controller advances, to the
next head with its HEAD REQUEST, or at the last head to IDLE with SWEEP DONE, reason COMPLETE, to ARMED, or to the next pass;
the record, its words those of `ResultRecordEntersWithItsOverrunFlag`, enters the queue at once when it has room and no
outcome record waits, with its overrun flag, RESULT OVERRUN and CELL CLOSED, and waits in the result holder otherwise. It rests on assumption log 12 (the model's choice). -/
def Obligations.CloseIsEvaluatedAndRecorded : Prop :=
  (∀ sc : SweepController,
    (sc.kind = .centre → 1 ≤ sc.acc.n → sc.acc.sumP * sc.acc.sumP ≤ (sc.acc.n : Int) * sc.acc.sumP2 →
      ∃ (m : Int) (var spread : Nat), IsRound m sc.acc.sumP sc.acc.n ∧
        (var : Int) = ((sc.acc.n : Int) * sc.acc.sumP2 - sc.acc.sumP * sc.acc.sumP) / ((sc.acc.n : Int) * sc.acc.n) ∧
        spread * spread ≤ var ∧ var < (spread + 1) * (spread + 1) ∧
        closeFigures sc .quota =
          { outcome := if m.natAbs ≤ sc.limit ∧ spread ≤ sc.spreadLimit then .accepted else .rejected
            value := some m, spread := spread, extremes := none }) ∧
    (sc.kind = .jog → sc.acc.sumW = 0 →
      closeFigures sc .quota = { outcome := .noSignal, value := none, spread := 0, extremes := none }) ∧
    (∀ lo hi : Int, sc.kind = .jog → 0 < sc.acc.sumW → sc.acc.least = some lo → sc.acc.greatest = some hi →
      ∃ j : Int, IsRound j sc.acc.sumWP sc.acc.sumW ∧ closeFigures sc .quota =
        { outcome := if j ≤ lo ∨ hi ≤ j then .edge else if sc.limit < j.natAbs then .rejected else .accepted
          value := some j, spread := 0, extremes := some (lo, hi) }) ∧
    closeFigures sc .short = { closeFigures sc .quota with outcome := .short } ∧
    closeFigures sc .noHead = { outcome := .noHead, value := none, spread := 0, extremes := none } ∧
    ∀ (x : Figures) (c : CellRecord), closedCell sc x c =
      { centre := if x.outcome = .accepted ∧ sc.kind = .centre then x.value else c.centre
        jog := if x.outcome = .accepted ∧ sc.kind = .jog then x.value else c.jog
        outcome := x.outcome, kind := sc.kind, unread := c.unread, passes := sc.passNumber }) ∧
  ∀ (s : State) (cause : CloseCause),
    let t := s.closeCell cause
    let x := closeFigures s.sc cause
    let head := s.sc.currentHead
    let place := some (head, s.sc.zone)
    let c := cellIndex head s.sc.zone
    let cell := closedCell s.sc x (s.table.cell c)
    let r : ResultRecord :=
      { head := head, zone := s.sc.zone, kind := s.sc.kind, outcome := x.outcome
        n := if cause = .noHead then 0 else s.sc.acc.n
        value := x.value, spread := x.spread, extremes := x.extremes
        missed := if cause = .noHead then 0 else s.sc.acc.missed
        slips := if cause = .noHead then 0 else s.sc.acc.slips
        history := (s.fm.record head).history, passNumber := s.sc.passNumber
        addr := s.tp.resultArea.getD 0 + 32 * (32 * head.val + s.sc.zone.val) }
    let completed := min 65535 (s.sc.passesCompleted + 1)
    let next : Fin 16 := Fin.ofNat 16 ((head.val + 1) % s.fr.heads)
    let moved : SweepController × ReportArbiter :=
      if head ≠ s.sc.lastHead then
        ({ s.sc with state := .awaitHead, currentHead := next, revolutions := 0 },
          s.ra.raise .headRequest { place := some (next, s.sc.zone), a := 0, b := 0 })
      else if s.sc.passes = .onePass then
        ({ s.sc with state := .idle, passesCompleted := completed },
          s.ra.raise .sweepDone { place := none, a := 1, b := completed })
      else if s.sc.trigger = .now then
        ({ s.sc with
            state := .awaitHead, currentHead := s.sc.firstHead, revolutions := 0, passesCompleted := completed
            passNumber := min 65535 (s.sc.passNumber + 1) },
          s.ra.raise .headRequest { place := some (s.sc.firstHead, s.sc.zone), a := 0, b := 0 })
      else ({ s.sc with state := .armed, currentHead := s.sc.firstHead, passesCompleted := completed }, s.ra)
    (16 ≤ s.tp.queue.length ∨ s.dd.holder ≠ none →
      { t with table := s.table } = { s with sc := { moved.1 with holder := some r }, ra := moved.2 } ∧
      ∀ i : Fin 512, t.table.cell i = if i = c then cell else s.table.cell i) ∧
    (s.tp.queue.length < 16 → s.dd.holder = none →
      let unread := (s.table.cell c).unread
      { t with table := s.table } = { s with
        tp := { s.tp with
          queue := s.tp.queue ++ [{ addr := r.addr, words := resultWords r unread, kind := .result c }]
          outstanding := s.tp.outstanding.map fun y => match y with
            | .write a => .write a
            | .read b ofResult cells slots => .read b ofResult (cells.filter fun i => i ≠ c) slots }
        sc := { moved.1 with holder := none }
        ra := (if unread then moved.2.raise .resultOverrun { place := place, a := 0, b := 0 } else moved.2).raise
          .cellClosed { place := place, a := x.outcome.code, b := 0 } } ∧
      ∀ i : Fin 512, t.table.cell i = if i = c then { cell with unread := true } else s.table.cell i)

/-! ## Encoding a figure (chapter 7) -/

/-- R122. The encoding of a committed value for an entry of width 8 or 16 and scale 4 to 14: scaled to field units, exactly or
rounded, limited to the range of the width and encoding, and stored as raw content; it saturates exactly when the limit
changed the scaled value, and a 16-bit field never does. -/
def Obligations.FigureIsScaledLimitedAndEncoded : Prop :=
  ∀ (e : PatchEntry) (v : Int), -512 ≤ v → v ≤ 511 → (e.width = 8 ∨ e.width = 16) → 4 ≤ e.scale → e.scale ≤ 14 →
    ∃ scaled limited : Int,
      (10 ≤ e.scale → scaled = v * 2 ^ (e.scale - 10)) ∧ (e.scale < 10 → IsRound scaled v (2 ^ (10 - e.scale))) ∧
      (let half : Int := 2 ^ (e.width - 1)
       let low := if e.encoding = .signMag then 1 - half else -half
       let raw := ((encodeFigure e v).1 : Int)
       limited = max low (min (half - 1) scaled) ∧
       (e.encoding = .twos → raw = limited % (2 * half)) ∧
       (e.encoding = .offset → raw = limited + half) ∧
       (e.encoding = .signMag → raw = if limited < 0 then half + -limited else limited)) ∧
      ((encodeFigure e v).2 = true ↔ limited ≠ scaled) ∧ (e.width = 16 → limited = scaled)

/-! ## Invariants -/

/-- Every step keeps the invariant of the insertion queue, the stalls and the report ring (R133 to R142, R151, R161 to
R165). It rests on assumption logs 8, 12 and 13 (the model's choices). -/
def Obligations.EveryStepKeepsTheQueueInvariant : Prop :=
  ∀ s t : State, QueueInv s → step s = .next t → QueueInv t

/-- Every step keeps the window map aligned, inside the address space and free of overlap (R113, R115, R157 to R160). It
rests on assumption logs 6 and 8 (the model's choices). -/
def Obligations.EveryStepKeepsTheWindowInvariant : Prop :=
  ∀ s t : State, WindowInv s → step s = .next t → WindowInv t

/-- Every step keeps the image record: the map ordered and free of overlap, LIVE entries with baselines in PUBLISHED alone, and the
adjustment the sum of R124 (R113 to R129). It rests on assumption log 8 (the model's choice). -/
def Obligations.EveryStepKeepsTheImageInvariant : Prop :=
  ∀ s t : State, ImageInv s → step s = .next t → ImageInv t

/-- Every step keeps the ranges and the consistency of the geometry, the follow records, the sweep and the timing (R1, R24 to R26,
R44 to R58, R76, R99). It rests on assumption logs 8 and 10 (the model's choices). -/
def Obligations.EveryStepKeepsTheBenchInvariant : Prop :=
  ∀ s t : State, BenchInv s → step s = .next t → BenchInv t

/-- The four invariants hold at State.reset. -/
def Obligations.ResetMeetsTheInvariants : Prop :=
  QueueInv State.reset ∧ WindowInv State.reset ∧ ImageInv State.reset ∧ BenchInv State.reset
end

