-- ==== Sys2Proof/Laws/Arithmetic.lean ====
section
/-! SUPPORT. What the arithmetic of section 0.7 does: saturating counts, clamps, rounding, and the integer square root of
R101. -/

namespace Sys2Proof.Machine

/-! ## Counts and clamps -/

/-- A saturating count is the sum, or its limit (section 0.7). -/
theorem saturate_eq (limit n k : Nat) : saturate limit n k = min limit (n + k) := rfl

/-- A saturating count never passes its limit (section 0.7). -/
theorem saturate_le (limit n k : Nat) : saturate limit n k ≤ limit := Nat.min_le_left _ _

/-- A clamped operand lies in its range (section 9.3). -/
theorem clamp_bounds {low high : Nat} (h : low ≤ high) (x : Nat) : low ≤ clamp low high x ∧ clamp low high x ≤ high := by
  simp only [clamp]
  omega

/-- A clamp leaves an operand of the range as it is (section 9.3). -/
theorem clamp_of_mem {low high x : Nat} (h1 : low ≤ x) (h2 : x ≤ high) : clamp low high x = x := by
  simp only [clamp]
  omega

/-- An operand carries no mark exactly when its clamp left it (R150). -/
theorem clampMark_eq_zero (n x c : Nat) : clampMark n x c = 0 ↔ x = c := by
  simp only [clampMark]
  split <;> simp_all

/-! ## Rounding (section 0.7) -/

/-- The rounding of a natural quotient. -/
theorem half_up (n d : Nat) (hd : 0 < d) :
    2 * ((2 * n + d) / (2 * d)) * d ≤ 2 * n + d ∧ 2 * n + d < 2 * ((2 * n + d) / (2 * d)) * d + 2 * d := by
  have h1 := Nat.div_add_mod (2 * n + d) (2 * d)
  have h2 := Nat.mod_lt (2 * n + d) (show 0 < 2 * d by omega)
  have h3 : 2 * ((2 * n + d) / (2 * d)) * d = 2 * d * ((2 * n + d) / (2 * d)) := by ring
  omega

/-- `roundDiv` is the rounding of section 0.7. -/
theorem roundDiv_isRound (num : Int) (den : Nat) (h : 0 < den) : IsRound (roundDiv num den) num den := by
  have hu := half_up num.natAbs den h
  generalize hq : (2 * num.natAbs + den) / (2 * den) = q at hu
  have hqd : ((q * den : Nat) : Int) = (q : Int) * den := by push_cast; ring
  have hm : 2 * q * den = 2 * (q * den) := by ring
  rw [hm] at hu
  simp only [IsRound, roundDiv, hq]
  generalize hp : q * den = p at *
  split
  · rw [Int.neg_mul, ← hqd]
    omega
  · rw [← hqd]
    omega

/-- A rounded quotient stays between bounds that the exact quotient keeps. -/
theorem roundDiv_bounds {num lo hi : Int} {den : Nat} (h : 0 < den) (h1 : lo * den ≤ num) (h2 : num ≤ hi * den) :
    lo ≤ roundDiv num den ∧ roundDiv num den ≤ hi := by
  have hr := (roundDiv_isRound num den h).1
  generalize roundDiv num den = q at hr
  have hd : (0 : Int) < den := by exact_mod_cast h
  constructor
  · by_contra hc
    have h3 : q + 1 ≤ lo := by omega
    have h4 : (q + 1) * den ≤ lo * den := Int.mul_le_mul_of_nonneg_right h3 (by omega)
    have h5 : (q + 1) * (den : Int) = q * den + den := by ring
    generalize q * (den : Int) = x at *
    generalize lo * (den : Int) = y at *
    omega
  · by_contra hc
    have h3 : hi + 1 ≤ q := by omega
    have h4 : (hi + 1) * den ≤ q * den := Int.mul_le_mul_of_nonneg_right h3 (by omega)
    have h5 : (hi + 1) * (den : Int) = hi * den + den := by ring
    generalize q * (den : Int) = x at *
    generalize hi * (den : Int) = y at *
    omega

/-! ## The integer square root (R101) -/

/-- From a root of the bits above `b`, the bits below are found. -/
theorem isqrtFrom_spec (b v r : Nat) (h1 : r * r ≤ v) (h2 : v < (r + 2 ^ b) * (r + 2 ^ b)) :
    isqrtFrom b v r * isqrtFrom b v r ≤ v ∧ v < (isqrtFrom b v r + 1) * (isqrtFrom b v r + 1) := by
  induction b generalizing r with
  | zero => simpa [isqrtFrom] using ⟨h1, h2⟩
  | succ b ih =>
    simp only [isqrtFrom]
    split
    · rename_i h
      refine ih _ h ?_
      have : r + 2 ^ b + 2 ^ b = r + 2 ^ (b + 1) := by rw [pow_succ]; omega
      rw [this]
      exact h2
    · rename_i h
      exact ih _ h1 (by omega)

/-- `isqrt` is the greatest integer whose square is not above its operand (R101). -/
theorem isqrt_spec (v : Nat) : isqrt v * isqrt v ≤ v ∧ v < (isqrt v + 1) * (isqrt v + 1) := by
  refine isqrtFrom_spec _ v 0 (by omega) ?_
  have h := Nat.lt_log2_self (n := v)
  have h1 : v < 2 ^ (v.log2 + 1) := h
  have h2 : 0 < 2 ^ (v.log2 + 1) := Nat.two_pow_pos _
  simp only [Nat.zero_add]
  calc v < 2 ^ (v.log2 + 1) := h1
    _ = 2 ^ (v.log2 + 1) * 1 := by ring
    _ ≤ _ := Nat.mul_le_mul_left _ h2

/-! ## The lowest failing condition (R150) -/

/-- No condition fails exactly when every one holds (R150). -/
theorem lowestFailing_none (l : List (Bool × Nat)) : lowestFailing l = none ↔ ∀ x ∈ l, x.1 = false := by
  induction l with
  | nil => simp [lowestFailing]
  | cons x l ih =>
    obtain ⟨f, n⟩ := x
    cases f <;> cases hl : lowestFailing l <;> simp_all [lowestFailing]

/-- The operand named is the lowest of the conditions that fail (R150). -/
theorem lowestFailing_some (l : List (Bool × Nat)) (n : Nat) (h : lowestFailing l = some n) :
    (true, n) ∈ l ∧ ∀ x ∈ l, x.1 = true → n ≤ x.2 := by
  induction l generalizing n with
  | nil => simp [lowestFailing] at h
  | cons x l ih =>
    obtain ⟨f, k⟩ := x
    cases f
    · simp only [lowestFailing] at h
      have := ih n h
      simp_all
    · cases hl : lowestFailing l with
      | none =>
        simp only [lowestFailing, hl, Option.some.injEq] at h
        subst h
        have hn := (lowestFailing_none l).mp hl
        refine ⟨List.mem_cons_self, ?_⟩
        intro x hx hx1
        rcases List.mem_cons.mp hx with rfl | hx
        · exact Nat.le_refl _
        · rw [hn x hx] at hx1
          cases hx1
      | some m =>
        simp only [lowestFailing, hl, Option.some.injEq] at h
        have := ih m hl
        refine ⟨?_, ?_⟩
        · rcases Nat.le_total k m with hkm | hkm
          · rw [← h, Nat.min_eq_left hkm]
            exact List.mem_cons_self
          · rw [← h, Nat.min_eq_right hkm]
            exact List.mem_cons_of_mem _ this.1
        · intro x hx hx1
          rcases List.mem_cons.mp hx with rfl | hx
          · simp only []
            omega
          · have := this.2 x hx hx1
            omega

end Sys2Proof.Machine
end

