-- ==== Sys2Proof/Laws/Banks.lean ====
section
/-! SUPPORT. What the operations over the banks of records do to each record: the follow records (R24), the cells (R63) and
the marks (R133). -/

namespace Sys2Proof.Machine

/-! ## Any bank -/

/-- Every record of a bank is changed. -/
@[simp] theorem mapBank_get {α : Type} {n : Nat} (f : α → α) (v : Vector α n) (i : Nat) (h : i < n) :
    (mapBank f v)[i] = f v[i] := by
  simp only [mapBank]
  rw [show (⟨⟨List.map f v.toList⟩, _⟩ : Vector α n)[i] = (List.map f v.toList)[i]'(by simpa using h) from rfl]
  simp

/-! ## Follow records (R24) -/

/-- The record of a head after the record of a head is replaced. -/
theorem FollowMonitor.setRecord_record (fm : FollowMonitor) (h x : Fin 16) (r : FollowRecord) :
    (fm.setRecord h r).record x = if x = h then r else fm.record x := by
  simp only [FollowMonitor.setRecord, FollowMonitor.record]
  by_cases hx : x = h
  · subst hx
    simp
  · have : h.val ≠ x.val := fun h' => hx (Fin.ext h'.symm)
    simp [hx, this]

/-- Replacing a record keeps all but the records. -/
theorem FollowMonitor.setRecord_frame (fm : FollowMonitor) (h : Fin 16) (r : FollowRecord) :
    { fm.setRecord h r with records := fm.records } = fm := rfl

@[simp] theorem FollowMonitor.setRecord_active (fm : FollowMonitor) (h : Fin 16) (r : FollowRecord) :
    (fm.setRecord h r).active = fm.active := rfl
@[simp] theorem FollowMonitor.setRecord_last (fm : FollowMonitor) (h : Fin 16) (r : FollowRecord) :
    (fm.setRecord h r).last = fm.last := rfl
@[simp] theorem FollowMonitor.setRecord_settle (fm : FollowMonitor) (h : Fin 16) (r : FollowRecord) :
    (fm.setRecord h r).settle = fm.settle := rfl
@[simp] theorem FollowMonitor.setRecord_inhibit (fm : FollowMonitor) (h : Fin 16) (r : FollowRecord) :
    (fm.setRecord h r).inhibit = fm.inhibit := rfl
@[simp] theorem FollowMonitor.setRecord_acquireLimit (fm : FollowMonitor) (h : Fin 16) (r : FollowRecord) :
    (fm.setRecord h r).acquireLimit = fm.acquireLimit := rfl

/-- A head operand names a head: ALL names every head, a head below H names itself (R39, R41, R42). -/
theorem choiceNames_headChoice {heads : Nat} (hh : heads ≤ 16) (x : BitVec 8) (h : Fin 16) :
    choiceNames (headChoice heads x) h = decide (x = 0xFF ∨ (x.toNat < heads ∧ x.toNat = h.val)) := by
  simp only [headChoice]
  by_cases h1 : x = 0xFF
  · rw [if_pos h1]
    simp [h1, choiceNames]
  · rw [if_neg h1]
    by_cases h2 : x.toNat < heads
    · rw [if_pos h2]
      have h3 : x.toNat % 16 = x.toNat := Nat.mod_eq_of_lt (by omega)
      simp only [choiceNames, Fin.ext_iff, Fin.ofNat, h3, h1, h2, false_or, true_and]
    · rw [if_neg h2]
      simp only [choiceNames, h1, h2, false_or, false_and, decide_false]

/-- The record of a head after the records a head operand names are changed (R39, R41, R42). -/
theorem changeRecords_record (fm : FollowMonitor) (c : HeadChoice) (f : FollowRecord → FollowRecord) (h : Fin 16) :
    (changeRecords fm c f).record h = if choiceNames c h = true then f (fm.record h) else fm.record h := by
  cases c with
  | all => simp [changeRecords, choiceNames, FollowMonitor.record]
  | one x =>
    simp only [changeRecords, choiceNames, FollowMonitor.setRecord_record, decide_eq_true_eq]
    by_cases hx : h = x
    · subst hx
      simp
    · rw [if_neg hx, if_neg (fun h' => hx h'.symm)]
  | bad => simp [changeRecords, choiceNames]

/-- Changing records keeps all but the records. -/
theorem changeRecords_frame (fm : FollowMonitor) (c : HeadChoice) (f : FollowRecord → FollowRecord) :
    { changeRecords fm c f with records := fm.records } = fm := by
  cases c <;> rfl

/-! ## Cells (R63) -/

/-- The cell of an index after a cell is replaced. -/
theorem AlignmentTable.setCell_cell (t : AlignmentTable) (c x : Fin 512) (r : CellRecord) :
    (t.setCell c r).cell x = if x = c then r else t.cell x := by
  simp only [AlignmentTable.setCell, AlignmentTable.cell]
  by_cases hx : x = c
  · subst hx
    simp
  · have : c.val ≠ x.val := fun h' => hx (Fin.ext h'.symm)
    simp [hx, this]

/-- The cell of an index after an unread flag is set or cleared (R67, R68, R70). -/
theorem AlignmentTable.setUnread_cell (t : AlignmentTable) (c x : Fin 512) (b : Bool) :
    (t.setUnread c b).cell x = if x = c then { t.cell x with unread := b } else t.cell x := by
  simp only [AlignmentTable.setUnread, AlignmentTable.setCell_cell]
  by_cases hx : x = c
  · subst hx
    rfl
  · simp [hx]

/-- A cell after every unread flag is cleared (R71). -/
@[simp] theorem clearUnread_cell (t : AlignmentTable) (c : Fin 512) :
    (clearUnread t).cell c = { t.cell c with unread := false } := by
  simp [clearUnread, AlignmentTable.cell]

/-- A cell of the list of cells after the named heads' cells are emptied. -/
theorem emptyCells_get (c : HeadChoice) (l : List CellRecord) (i k : Nat) (h : k < l.length) :
    (emptyCells c l i)[k]'(by rw [emptyCells_length]; exact h) =
      if choiceNames c (Fin.ofNat 16 ((i + k) / 32)) = true then CellRecord.reset else l[k] := by
  induction l generalizing i k with
  | nil => simp at h
  | cons x rest ih =>
    cases k with
    | zero => simp [emptyCells]
    | succ k =>
      have h' : k < rest.length := by simpa using h
      have := ih (i + 1) k h'
      simp only [emptyCells, List.getElem_cons_succ]
      rw [this]
      have e : i + 1 + k = i + (k + 1) := by omega
      rw [e]

/-- A cell after the named heads' cells are emptied (R72). -/
theorem emptyHeads_cell (t : AlignmentTable) (c : HeadChoice) (x : Fin 512) :
    (emptyHeads t c).cell x = if choiceNames c (cellHead x) = true then CellRecord.reset else t.cell x := by
  have hx : x.val < t.cells.toList.length := by simp
  have h := emptyCells_get c t.cells.toList 0 x.val hx
  have e : (emptyHeads t c).cell x =
      (emptyCells c t.cells.toList 0)[x.val]'(by rw [emptyCells_length]; exact hx) := rfl
  have e2 : (Fin.ofNat 16 ((0 + x.val) / 32) : Fin 16) = cellHead x := by
    apply Fin.ext
    simp [cellHead]
    omega
  rw [e, h, e2]
  simp [AlignmentTable.cell]

/-! ## Marks (R133, R147) -/

/-- The marks of a list that are set, after one that was clear or set is replaced. -/
theorem countP_set (l : List Bool) (i : Nat) (h : i < l.length) (b : Bool) :
    (l.set i b).countP id + (l[i]'h).toNat = l.countP id + b.toNat := by
  induction l generalizing i with
  | nil => simp at h
  | cons x rest ih =>
    cases i with
    | zero => cases x <;> cases b <;> simp
    | succ i =>
      have h' : i < rest.length := by simpa using h
      have := ih i h'
      cases x <;> simp <;> omega

/-- How many marks are set after one is replaced. -/
theorem countMarks_set {n : Nat} (v : Vector Bool n) (i : Nat) (h : i < n) (b : Bool) :
    countMarks (v.set i b) + (v[i]).toNat = countMarks v + b.toNat := by
  have := countP_set v.toList i (by simpa using h) b
  simp only [countMarks, Vector.toList_set]
  simpa using this

/-- A mark that is set is counted. -/
theorem countMarks_pos {n : Nat} (v : Vector Bool n) (i : Nat) (h : i < n) (hm : v[i] = true) : 0 < countMarks v := by
  have := countMarks_set v i h false
  rw [hm] at this
  simp at this
  omega

/-- With no mark set the count is 0. -/
theorem countMarks_replicate (n : Nat) : countMarks (Vector.replicate n false) = 0 := by
  simp [countMarks]

end Sys2Proof.Machine
end

