-- ==== Sys2Proof/Laws/State.lean ====
section
/-! SUPPORT. What each update of one block does to each field of State, and what the updates that raise a report, send or
answer do: every lemma holds by definition. -/

namespace Sys2Proof.Machine

/-! ## Replacing `tp` -/

@[simp] theorem State.withTp_resetLow (s : State) (x : TransferPath) : (s.withTp x).resetLow = s.resetLow := rfl
@[simp] theorem State.withTp_tp (s : State) (x : TransferPath) : (s.withTp x).tp = x := rfl
@[simp] theorem State.withTp_dd (s : State) (x : TransferPath) : (s.withTp x).dd = s.dd := rfl
@[simp] theorem State.withTp_fr (s : State) (x : TransferPath) : (s.withTp x).fr = s.fr := rfl
@[simp] theorem State.withTp_fm (s : State) (x : TransferPath) : (s.withTp x).fm = s.fm := rfl
@[simp] theorem State.withTp_tsm (s : State) (x : TransferPath) : (s.withTp x).tsm = s.tsm := rfl
@[simp] theorem State.withTp_table (s : State) (x : TransferPath) : (s.withTp x).table = s.table := rfl
@[simp] theorem State.withTp_sc (s : State) (x : TransferPath) : (s.withTp x).sc = s.sc := rfl
@[simp] theorem State.withTp_ip (s : State) (x : TransferPath) : (s.withTp x).ip = s.ip := rfl
@[simp] theorem State.withTp_ra (s : State) (x : TransferPath) : (s.withTp x).ra = s.ra := rfl
@[simp] theorem State.withTp_ports (s : State) (x : TransferPath) : (s.withTp x).ports = s.ports := rfl
@[simp] theorem State.withTp_pending (s : State) (x : TransferPath) : (s.withTp x).pending = s.pending := rfl
@[simp] theorem State.withTp_withTp (s : State) (x y : TransferPath) : (s.withTp x).withTp y = s.withTp y := rfl

/-! ## Replacing `dd` -/

@[simp] theorem State.withDd_resetLow (s : State) (x : DirectiveDecoder) : (s.withDd x).resetLow = s.resetLow := rfl
@[simp] theorem State.withDd_tp (s : State) (x : DirectiveDecoder) : (s.withDd x).tp = s.tp := rfl
@[simp] theorem State.withDd_dd (s : State) (x : DirectiveDecoder) : (s.withDd x).dd = x := rfl
@[simp] theorem State.withDd_fr (s : State) (x : DirectiveDecoder) : (s.withDd x).fr = s.fr := rfl
@[simp] theorem State.withDd_fm (s : State) (x : DirectiveDecoder) : (s.withDd x).fm = s.fm := rfl
@[simp] theorem State.withDd_tsm (s : State) (x : DirectiveDecoder) : (s.withDd x).tsm = s.tsm := rfl
@[simp] theorem State.withDd_table (s : State) (x : DirectiveDecoder) : (s.withDd x).table = s.table := rfl
@[simp] theorem State.withDd_sc (s : State) (x : DirectiveDecoder) : (s.withDd x).sc = s.sc := rfl
@[simp] theorem State.withDd_ip (s : State) (x : DirectiveDecoder) : (s.withDd x).ip = s.ip := rfl
@[simp] theorem State.withDd_ra (s : State) (x : DirectiveDecoder) : (s.withDd x).ra = s.ra := rfl
@[simp] theorem State.withDd_ports (s : State) (x : DirectiveDecoder) : (s.withDd x).ports = s.ports := rfl
@[simp] theorem State.withDd_pending (s : State) (x : DirectiveDecoder) : (s.withDd x).pending = s.pending := rfl
@[simp] theorem State.withDd_withDd (s : State) (x y : DirectiveDecoder) : (s.withDd x).withDd y = s.withDd y := rfl

/-! ## Replacing `fr` -/

@[simp] theorem State.withFr_resetLow (s : State) (x : FrameReducer) : (s.withFr x).resetLow = s.resetLow := rfl
@[simp] theorem State.withFr_tp (s : State) (x : FrameReducer) : (s.withFr x).tp = s.tp := rfl
@[simp] theorem State.withFr_dd (s : State) (x : FrameReducer) : (s.withFr x).dd = s.dd := rfl
@[simp] theorem State.withFr_fr (s : State) (x : FrameReducer) : (s.withFr x).fr = x := rfl
@[simp] theorem State.withFr_fm (s : State) (x : FrameReducer) : (s.withFr x).fm = s.fm := rfl
@[simp] theorem State.withFr_tsm (s : State) (x : FrameReducer) : (s.withFr x).tsm = s.tsm := rfl
@[simp] theorem State.withFr_table (s : State) (x : FrameReducer) : (s.withFr x).table = s.table := rfl
@[simp] theorem State.withFr_sc (s : State) (x : FrameReducer) : (s.withFr x).sc = s.sc := rfl
@[simp] theorem State.withFr_ip (s : State) (x : FrameReducer) : (s.withFr x).ip = s.ip := rfl
@[simp] theorem State.withFr_ra (s : State) (x : FrameReducer) : (s.withFr x).ra = s.ra := rfl
@[simp] theorem State.withFr_ports (s : State) (x : FrameReducer) : (s.withFr x).ports = s.ports := rfl
@[simp] theorem State.withFr_pending (s : State) (x : FrameReducer) : (s.withFr x).pending = s.pending := rfl
@[simp] theorem State.withFr_withFr (s : State) (x y : FrameReducer) : (s.withFr x).withFr y = s.withFr y := rfl

/-! ## Replacing `fm` -/

@[simp] theorem State.withFm_resetLow (s : State) (x : FollowMonitor) : (s.withFm x).resetLow = s.resetLow := rfl
@[simp] theorem State.withFm_tp (s : State) (x : FollowMonitor) : (s.withFm x).tp = s.tp := rfl
@[simp] theorem State.withFm_dd (s : State) (x : FollowMonitor) : (s.withFm x).dd = s.dd := rfl
@[simp] theorem State.withFm_fr (s : State) (x : FollowMonitor) : (s.withFm x).fr = s.fr := rfl
@[simp] theorem State.withFm_fm (s : State) (x : FollowMonitor) : (s.withFm x).fm = x := rfl
@[simp] theorem State.withFm_tsm (s : State) (x : FollowMonitor) : (s.withFm x).tsm = s.tsm := rfl
@[simp] theorem State.withFm_table (s : State) (x : FollowMonitor) : (s.withFm x).table = s.table := rfl
@[simp] theorem State.withFm_sc (s : State) (x : FollowMonitor) : (s.withFm x).sc = s.sc := rfl
@[simp] theorem State.withFm_ip (s : State) (x : FollowMonitor) : (s.withFm x).ip = s.ip := rfl
@[simp] theorem State.withFm_ra (s : State) (x : FollowMonitor) : (s.withFm x).ra = s.ra := rfl
@[simp] theorem State.withFm_ports (s : State) (x : FollowMonitor) : (s.withFm x).ports = s.ports := rfl
@[simp] theorem State.withFm_pending (s : State) (x : FollowMonitor) : (s.withFm x).pending = s.pending := rfl
@[simp] theorem State.withFm_withFm (s : State) (x y : FollowMonitor) : (s.withFm x).withFm y = s.withFm y := rfl

/-! ## Replacing `tsm` -/

@[simp] theorem State.withTsm_resetLow (s : State) (x : SpindleMonitor) : (s.withTsm x).resetLow = s.resetLow := rfl
@[simp] theorem State.withTsm_tp (s : State) (x : SpindleMonitor) : (s.withTsm x).tp = s.tp := rfl
@[simp] theorem State.withTsm_dd (s : State) (x : SpindleMonitor) : (s.withTsm x).dd = s.dd := rfl
@[simp] theorem State.withTsm_fr (s : State) (x : SpindleMonitor) : (s.withTsm x).fr = s.fr := rfl
@[simp] theorem State.withTsm_fm (s : State) (x : SpindleMonitor) : (s.withTsm x).fm = s.fm := rfl
@[simp] theorem State.withTsm_tsm (s : State) (x : SpindleMonitor) : (s.withTsm x).tsm = x := rfl
@[simp] theorem State.withTsm_table (s : State) (x : SpindleMonitor) : (s.withTsm x).table = s.table := rfl
@[simp] theorem State.withTsm_sc (s : State) (x : SpindleMonitor) : (s.withTsm x).sc = s.sc := rfl
@[simp] theorem State.withTsm_ip (s : State) (x : SpindleMonitor) : (s.withTsm x).ip = s.ip := rfl
@[simp] theorem State.withTsm_ra (s : State) (x : SpindleMonitor) : (s.withTsm x).ra = s.ra := rfl
@[simp] theorem State.withTsm_ports (s : State) (x : SpindleMonitor) : (s.withTsm x).ports = s.ports := rfl
@[simp] theorem State.withTsm_pending (s : State) (x : SpindleMonitor) : (s.withTsm x).pending = s.pending := rfl
@[simp] theorem State.withTsm_withTsm (s : State) (x y : SpindleMonitor) : (s.withTsm x).withTsm y = s.withTsm y := rfl

/-! ## Replacing `table` -/

@[simp] theorem State.withTable_resetLow (s : State) (x : AlignmentTable) : (s.withTable x).resetLow = s.resetLow := rfl
@[simp] theorem State.withTable_tp (s : State) (x : AlignmentTable) : (s.withTable x).tp = s.tp := rfl
@[simp] theorem State.withTable_dd (s : State) (x : AlignmentTable) : (s.withTable x).dd = s.dd := rfl
@[simp] theorem State.withTable_fr (s : State) (x : AlignmentTable) : (s.withTable x).fr = s.fr := rfl
@[simp] theorem State.withTable_fm (s : State) (x : AlignmentTable) : (s.withTable x).fm = s.fm := rfl
@[simp] theorem State.withTable_tsm (s : State) (x : AlignmentTable) : (s.withTable x).tsm = s.tsm := rfl
@[simp] theorem State.withTable_table (s : State) (x : AlignmentTable) : (s.withTable x).table = x := rfl
@[simp] theorem State.withTable_sc (s : State) (x : AlignmentTable) : (s.withTable x).sc = s.sc := rfl
@[simp] theorem State.withTable_ip (s : State) (x : AlignmentTable) : (s.withTable x).ip = s.ip := rfl
@[simp] theorem State.withTable_ra (s : State) (x : AlignmentTable) : (s.withTable x).ra = s.ra := rfl
@[simp] theorem State.withTable_ports (s : State) (x : AlignmentTable) : (s.withTable x).ports = s.ports := rfl
@[simp] theorem State.withTable_pending (s : State) (x : AlignmentTable) : (s.withTable x).pending = s.pending := rfl
@[simp] theorem State.withTable_withTable (s : State) (x y : AlignmentTable) : (s.withTable x).withTable y = s.withTable y := rfl

/-! ## Replacing `sc` -/

@[simp] theorem State.withSc_resetLow (s : State) (x : SweepController) : (s.withSc x).resetLow = s.resetLow := rfl
@[simp] theorem State.withSc_tp (s : State) (x : SweepController) : (s.withSc x).tp = s.tp := rfl
@[simp] theorem State.withSc_dd (s : State) (x : SweepController) : (s.withSc x).dd = s.dd := rfl
@[simp] theorem State.withSc_fr (s : State) (x : SweepController) : (s.withSc x).fr = s.fr := rfl
@[simp] theorem State.withSc_fm (s : State) (x : SweepController) : (s.withSc x).fm = s.fm := rfl
@[simp] theorem State.withSc_tsm (s : State) (x : SweepController) : (s.withSc x).tsm = s.tsm := rfl
@[simp] theorem State.withSc_table (s : State) (x : SweepController) : (s.withSc x).table = s.table := rfl
@[simp] theorem State.withSc_sc (s : State) (x : SweepController) : (s.withSc x).sc = x := rfl
@[simp] theorem State.withSc_ip (s : State) (x : SweepController) : (s.withSc x).ip = s.ip := rfl
@[simp] theorem State.withSc_ra (s : State) (x : SweepController) : (s.withSc x).ra = s.ra := rfl
@[simp] theorem State.withSc_ports (s : State) (x : SweepController) : (s.withSc x).ports = s.ports := rfl
@[simp] theorem State.withSc_pending (s : State) (x : SweepController) : (s.withSc x).pending = s.pending := rfl
@[simp] theorem State.withSc_withSc (s : State) (x y : SweepController) : (s.withSc x).withSc y = s.withSc y := rfl

/-! ## Replacing `ip` -/

@[simp] theorem State.withIp_resetLow (s : State) (x : ImagePatcher) : (s.withIp x).resetLow = s.resetLow := rfl
@[simp] theorem State.withIp_tp (s : State) (x : ImagePatcher) : (s.withIp x).tp = s.tp := rfl
@[simp] theorem State.withIp_dd (s : State) (x : ImagePatcher) : (s.withIp x).dd = s.dd := rfl
@[simp] theorem State.withIp_fr (s : State) (x : ImagePatcher) : (s.withIp x).fr = s.fr := rfl
@[simp] theorem State.withIp_fm (s : State) (x : ImagePatcher) : (s.withIp x).fm = s.fm := rfl
@[simp] theorem State.withIp_tsm (s : State) (x : ImagePatcher) : (s.withIp x).tsm = s.tsm := rfl
@[simp] theorem State.withIp_table (s : State) (x : ImagePatcher) : (s.withIp x).table = s.table := rfl
@[simp] theorem State.withIp_sc (s : State) (x : ImagePatcher) : (s.withIp x).sc = s.sc := rfl
@[simp] theorem State.withIp_ip (s : State) (x : ImagePatcher) : (s.withIp x).ip = x := rfl
@[simp] theorem State.withIp_ra (s : State) (x : ImagePatcher) : (s.withIp x).ra = s.ra := rfl
@[simp] theorem State.withIp_ports (s : State) (x : ImagePatcher) : (s.withIp x).ports = s.ports := rfl
@[simp] theorem State.withIp_pending (s : State) (x : ImagePatcher) : (s.withIp x).pending = s.pending := rfl
@[simp] theorem State.withIp_withIp (s : State) (x y : ImagePatcher) : (s.withIp x).withIp y = s.withIp y := rfl

/-! ## Replacing `ra` -/

@[simp] theorem State.withRa_resetLow (s : State) (x : ReportArbiter) : (s.withRa x).resetLow = s.resetLow := rfl
@[simp] theorem State.withRa_tp (s : State) (x : ReportArbiter) : (s.withRa x).tp = s.tp := rfl
@[simp] theorem State.withRa_dd (s : State) (x : ReportArbiter) : (s.withRa x).dd = s.dd := rfl
@[simp] theorem State.withRa_fr (s : State) (x : ReportArbiter) : (s.withRa x).fr = s.fr := rfl
@[simp] theorem State.withRa_fm (s : State) (x : ReportArbiter) : (s.withRa x).fm = s.fm := rfl
@[simp] theorem State.withRa_tsm (s : State) (x : ReportArbiter) : (s.withRa x).tsm = s.tsm := rfl
@[simp] theorem State.withRa_table (s : State) (x : ReportArbiter) : (s.withRa x).table = s.table := rfl
@[simp] theorem State.withRa_sc (s : State) (x : ReportArbiter) : (s.withRa x).sc = s.sc := rfl
@[simp] theorem State.withRa_ip (s : State) (x : ReportArbiter) : (s.withRa x).ip = s.ip := rfl
@[simp] theorem State.withRa_ra (s : State) (x : ReportArbiter) : (s.withRa x).ra = x := rfl
@[simp] theorem State.withRa_ports (s : State) (x : ReportArbiter) : (s.withRa x).ports = s.ports := rfl
@[simp] theorem State.withRa_pending (s : State) (x : ReportArbiter) : (s.withRa x).pending = s.pending := rfl
@[simp] theorem State.withRa_withRa (s : State) (x y : ReportArbiter) : (s.withRa x).withRa y = s.withRa y := rfl

/-! ## Replacing `ports` -/

@[simp] theorem State.withPorts_resetLow (s : State) (x : Ports) : (s.withPorts x).resetLow = s.resetLow := rfl
@[simp] theorem State.withPorts_tp (s : State) (x : Ports) : (s.withPorts x).tp = s.tp := rfl
@[simp] theorem State.withPorts_dd (s : State) (x : Ports) : (s.withPorts x).dd = s.dd := rfl
@[simp] theorem State.withPorts_fr (s : State) (x : Ports) : (s.withPorts x).fr = s.fr := rfl
@[simp] theorem State.withPorts_fm (s : State) (x : Ports) : (s.withPorts x).fm = s.fm := rfl
@[simp] theorem State.withPorts_tsm (s : State) (x : Ports) : (s.withPorts x).tsm = s.tsm := rfl
@[simp] theorem State.withPorts_table (s : State) (x : Ports) : (s.withPorts x).table = s.table := rfl
@[simp] theorem State.withPorts_sc (s : State) (x : Ports) : (s.withPorts x).sc = s.sc := rfl
@[simp] theorem State.withPorts_ip (s : State) (x : Ports) : (s.withPorts x).ip = s.ip := rfl
@[simp] theorem State.withPorts_ra (s : State) (x : Ports) : (s.withPorts x).ra = s.ra := rfl
@[simp] theorem State.withPorts_ports (s : State) (x : Ports) : (s.withPorts x).ports = x := rfl
@[simp] theorem State.withPorts_pending (s : State) (x : Ports) : (s.withPorts x).pending = s.pending := rfl
@[simp] theorem State.withPorts_withPorts (s : State) (x y : Ports) : (s.withPorts x).withPorts y = s.withPorts y := rfl

/-! ## `raise k d` -/

@[simp] theorem State.raise_resetLow (s : State) (k : ReportKind) (d : ReportDetail) : (s.raise k d).resetLow = s.resetLow := rfl
@[simp] theorem State.raise_tp (s : State) (k : ReportKind) (d : ReportDetail) : (s.raise k d).tp = s.tp := rfl
@[simp] theorem State.raise_dd (s : State) (k : ReportKind) (d : ReportDetail) : (s.raise k d).dd = s.dd := rfl
@[simp] theorem State.raise_fr (s : State) (k : ReportKind) (d : ReportDetail) : (s.raise k d).fr = s.fr := rfl
@[simp] theorem State.raise_fm (s : State) (k : ReportKind) (d : ReportDetail) : (s.raise k d).fm = s.fm := rfl
@[simp] theorem State.raise_tsm (s : State) (k : ReportKind) (d : ReportDetail) : (s.raise k d).tsm = s.tsm := rfl
@[simp] theorem State.raise_table (s : State) (k : ReportKind) (d : ReportDetail) : (s.raise k d).table = s.table := rfl
@[simp] theorem State.raise_sc (s : State) (k : ReportKind) (d : ReportDetail) : (s.raise k d).sc = s.sc := rfl
@[simp] theorem State.raise_ip (s : State) (k : ReportKind) (d : ReportDetail) : (s.raise k d).ip = s.ip := rfl
@[simp] theorem State.raise_ra (s : State) (k : ReportKind) (d : ReportDetail) : (s.raise k d).ra = s.ra.raise k d := rfl
@[simp] theorem State.raise_ports (s : State) (k : ReportKind) (d : ReportDetail) : (s.raise k d).ports = s.ports := rfl
@[simp] theorem State.raise_pending (s : State) (k : ReportKind) (d : ReportDetail) : (s.raise k d).pending = s.pending := rfl

/-! ## `clearReports ks` -/

@[simp] theorem State.clearReports_resetLow (s : State) (ks : List ReportKind) : (s.clearReports ks).resetLow = s.resetLow := rfl
@[simp] theorem State.clearReports_tp (s : State) (ks : List ReportKind) : (s.clearReports ks).tp = s.tp := rfl
@[simp] theorem State.clearReports_dd (s : State) (ks : List ReportKind) : (s.clearReports ks).dd = s.dd := rfl
@[simp] theorem State.clearReports_fr (s : State) (ks : List ReportKind) : (s.clearReports ks).fr = s.fr := rfl
@[simp] theorem State.clearReports_fm (s : State) (ks : List ReportKind) : (s.clearReports ks).fm = s.fm := rfl
@[simp] theorem State.clearReports_tsm (s : State) (ks : List ReportKind) : (s.clearReports ks).tsm = s.tsm := rfl
@[simp] theorem State.clearReports_table (s : State) (ks : List ReportKind) : (s.clearReports ks).table = s.table := rfl
@[simp] theorem State.clearReports_sc (s : State) (ks : List ReportKind) : (s.clearReports ks).sc = s.sc := rfl
@[simp] theorem State.clearReports_ip (s : State) (ks : List ReportKind) : (s.clearReports ks).ip = s.ip := rfl
@[simp] theorem State.clearReports_ra (s : State) (ks : List ReportKind) : (s.clearReports ks).ra = s.ra.clearEntries ks := rfl
@[simp] theorem State.clearReports_ports (s : State) (ks : List ReportKind) : (s.clearReports ks).ports = s.ports := rfl
@[simp] theorem State.clearReports_pending (s : State) (ks : List ReportKind) : (s.clearReports ks).pending = s.pending := rfl

/-! ## `sendDown e` -/

@[simp] theorem State.sendDown_resetLow (s : State) (e : DownEvent) : (s.sendDown e).resetLow = s.resetLow := rfl
@[simp] theorem State.sendDown_tp (s : State) (e : DownEvent) : (s.sendDown e).tp = s.tp := rfl
@[simp] theorem State.sendDown_dd (s : State) (e : DownEvent) : (s.sendDown e).dd = s.dd := rfl
@[simp] theorem State.sendDown_fr (s : State) (e : DownEvent) : (s.sendDown e).fr = s.fr := rfl
@[simp] theorem State.sendDown_fm (s : State) (e : DownEvent) : (s.sendDown e).fm = s.fm := rfl
@[simp] theorem State.sendDown_tsm (s : State) (e : DownEvent) : (s.sendDown e).tsm = s.tsm := rfl
@[simp] theorem State.sendDown_table (s : State) (e : DownEvent) : (s.sendDown e).table = s.table := rfl
@[simp] theorem State.sendDown_sc (s : State) (e : DownEvent) : (s.sendDown e).sc = s.sc := rfl
@[simp] theorem State.sendDown_ip (s : State) (e : DownEvent) : (s.sendDown e).ip = s.ip := rfl
@[simp] theorem State.sendDown_ra (s : State) (e : DownEvent) : (s.sendDown e).ra = s.ra := rfl
@[simp] theorem State.sendDown_ports (s : State) (e : DownEvent) : (s.sendDown e).ports = { s.ports with down := s.ports.down ++ [e] } := rfl
@[simp] theorem State.sendDown_pending (s : State) (e : DownEvent) : (s.sendDown e).pending = s.pending := rfl

/-! ## `replyUp e` -/

@[simp] theorem State.replyUp_resetLow (s : State) (e : UpEvent) : (s.replyUp e).resetLow = s.resetLow := rfl
@[simp] theorem State.replyUp_tp (s : State) (e : UpEvent) : (s.replyUp e).tp = s.tp := rfl
@[simp] theorem State.replyUp_dd (s : State) (e : UpEvent) : (s.replyUp e).dd = s.dd := rfl
@[simp] theorem State.replyUp_fr (s : State) (e : UpEvent) : (s.replyUp e).fr = s.fr := rfl
@[simp] theorem State.replyUp_fm (s : State) (e : UpEvent) : (s.replyUp e).fm = s.fm := rfl
@[simp] theorem State.replyUp_tsm (s : State) (e : UpEvent) : (s.replyUp e).tsm = s.tsm := rfl
@[simp] theorem State.replyUp_table (s : State) (e : UpEvent) : (s.replyUp e).table = s.table := rfl
@[simp] theorem State.replyUp_sc (s : State) (e : UpEvent) : (s.replyUp e).sc = s.sc := rfl
@[simp] theorem State.replyUp_ip (s : State) (e : UpEvent) : (s.replyUp e).ip = s.ip := rfl
@[simp] theorem State.replyUp_ra (s : State) (e : UpEvent) : (s.replyUp e).ra = s.ra := rfl
@[simp] theorem State.replyUp_ports (s : State) (e : UpEvent) : (s.replyUp e).ports = { s.ports with up := s.ports.up ++ [e] } := rfl
@[simp] theorem State.replyUp_pending (s : State) (e : UpEvent) : (s.replyUp e).pending = s.pending := rfl

/-! ## `whenRunning` -/

/-- While RESET is low a command changes nothing. -/
@[simp] theorem whenRunning_low (s : State) (f : State → State) (h : s.resetLow = true) : whenRunning s f = s := by
  simp [whenRunning, h]
/-- While RESET is high a command has its effect. -/
@[simp] theorem whenRunning_high (s : State) (f : State → State) (h : s.resetLow = false) : whenRunning s f = f s := by
  simp [whenRunning, h]

end Sys2Proof.Machine
end

