-- ==== Sys2Proof/Laws/Path.lean ====
section
/-! SUPPORT. What the upstream port does: the words of a burst, the window a mailbox word lies in, the hold of a write, and
the taking of the words of a write one after another. -/

namespace Sys2Proof.Machine

/-! ## The words of a beat -/

/-- The lower word of a beat. -/
@[simp] theorem beatOf_low (u l : Word) : (beatOf u l).extractLsb' 0 32 = l := by
  apply BitVec.eq_of_toNat_eq
  have hl := l.isLt
  have hu := u.isLt
  simp [beatOf]
  omega

/-- The upper word of a beat. -/
@[simp] theorem beatOf_high (u l : Word) : (beatOf u l).extractLsb' 32 32 = u := by
  apply BitVec.eq_of_toNat_eq
  have hl := l.isLt
  have hu := u.isLt
  simp [beatOf, Nat.shiftRight_eq_div_pow]
  omega

/-- The two words of a beat that carries every byte. -/
theorem beat_full (a : Nat) (u l : Word) : Beat.words a { data := beatOf u l, lanes := 0xFF } =
    [{ addr := a, data := l, enables := 0xF }, { addr := a + 4, data := u, enables := 0xF }] := by
  simp [Beat.words]

/-- The control region bases (R157). -/
theorem base_cases {b : Nat} {s : State} (h : Running b s) :
    b = 0x3FFFF000 ∨ b = 0x7FFFF000 ∨ b = 0xBFFFF000 ∨ b = 0xFFFFF000 := by
  obtain ⟨-, -, s1, s0, rfl⟩ := h
  cases s1 <;> cases s0 <;> simp

/-- The words of a directive written as one burst. -/
theorem directiveBurst_words {b : Nat} {s : State} (h : Running b s) (d : Directive) :
    burstWords (directiveBurst b d) =
      [{ addr := b, data := (directiveWords d)[0], enables := 0xF },
       { addr := b + 4, data := (directiveWords d)[1], enables := 0xF },
       { addr := b + 8, data := (directiveWords d)[2], enables := 0xF },
       { addr := b + 12, data := (directiveWords d)[3], enables := 0xF },
       { addr := b + 16, data := (directiveWords d)[4], enables := 0xF },
       { addr := b + 20, data := (directiveWords d)[5], enables := 0xF },
       { addr := b + 24, data := (directiveWords d)[6], enables := 0xF },
       { addr := b + 28, data := 0, enables := 0xF }] := by
  have hb : firstBeat (BitVec.ofNat 32 b) = b := by
    rcases base_cases h with rfl | rfl | rfl | rfl <;> rfl
  simp only [burstWords, directiveBurst, hb, beatWords, beat_full, List.cons_append, List.nil_append]

/-! ## The window of a mailbox word -/

/-- A word of the mailbox. -/
theorem decodeWrite_mailbox {tp : TransferPath} {b : Nat} (h : tp.controlBase = some b) (ip : ImagePatcher) (n : Nat)
    (hn : n < 8) : decodeWrite tp ip (b + 4 * n) = .mailbox n := by
  have h1 : mailboxWord tp (b + 4 * n) = some n := by
    simp only [mailboxWord, h]
    rw [if_pos ⟨by omega, by omega⟩]
    congr 1
    omega
  simp [decodeWrite, h1]

/-! ## The hold of a write (R164) -/

/-- A word that shares no byte with a record. -/
theorem recordTouches_false {e : QueueEntry} {w : WordWrite} (h : e.addr + 32 ≤ w.addr ∨ w.addr + 4 ≤ e.addr) :
    recordTouches e w = false := by
  simp only [recordTouches, Config.recordBytes, List.any_eq_false, List.mem_range]
  intro i hi
  simp only [Bool.and_eq_true, decide_eq_true_eq]
  rintro ⟨⟨-, h1⟩, h2⟩
  omega

/-- A word that shares no byte with any record is held for none. -/
theorem holdDepth_clear {q : List QueueEntry} {w : WordWrite} (h : QueueClear q w.addr 4) : holdDepth q w = 0 := by
  induction q with
  | nil => rfl
  | cons e rest ih =>
    have hr : holdDepth rest w = 0 := ih fun x hx => h x (List.mem_cons_of_mem _ hx)
    have he := recordTouches_false (h e List.mem_cons_self)
    simp [holdDepth, hr, he]

/-- Fewer bytes overlap no record either. -/
theorem QueueClear.sub {q : List QueueEntry} {a n a' n' : Nat} (h : QueueClear q a n) (h1 : a ≤ a')
    (h2 : a' + n' ≤ a + n) : QueueClear q a' n' := by
  intro e he
  rcases h e he with h | h <;> omega

/-! ## Taking the words of a write (R156) -/

/-- With no word left the write is done. -/
@[simp] theorem takeWords_nil (p : WriteProgress) (s : State) :
    takeWords [] p s = ({ p with todo := [], stall := none }, s) := rfl

/-- A word that does not stall the write is followed by the next. -/
theorem takeWords_cons (w : WordWrite) (rest : List WordWrite) (p : WriteProgress) (s : State)
    (h : (takeWord s w p.run).stall = none) :
    takeWords (w :: rest) p s = takeWords rest
      { p with taken := p.taken ++ [{ w with data := (takeWord s w p.run).data }]
               run := (takeWord s w p.run).run
               hold := max p.hold (holdDepth s.tp.queue w) } (takeWord s w p.run).state := by
  simp only [takeWords, h]

/-- A word that stalls the write leaves the words after it for later (R165). -/
theorem takeWords_stall (w : WordWrite) (rest : List WordWrite) (p : WriteProgress) (s : State) (x : Stall)
    (h : (takeWord s w p.run).stall = some x) :
    takeWords (w :: rest) p s = ({ p with
      taken := p.taken ++ [{ w with data := (takeWord s w p.run).data }]
      run := (takeWord s w p.run).run
      hold := max p.hold (holdDepth s.tp.queue w)
      todo := rest
      stall := some x }, (takeWord s w p.run).state) := by
  simp only [takeWords, h]

/-- What every word of a write keeps, the whole write keeps. -/
theorem takeWords_keeps (P : State → Prop) (step : ∀ s w run, P s → P (takeWord s w run).state) :
    ∀ (ws : List WordWrite) (p : WriteProgress) (s : State), P s → P (takeWords ws p s).2 := by
  intro ws
  induction ws with
  | nil => intro p s h; exact h
  | cons w rest ih =>
    intro p s h
    have h1 := step s w p.run h
    simp only [takeWords]
    split
    · exact h1
    · exact ih _ _ h1

/-! ## A write that goes on (R2, R165) -/

/-- A write none of whose words are taken has no slot run. -/
@[simp] theorem newWrite_resumed (w : WriteBurst) : (newWrite w).resumed = newWrite w := by
  unfold WriteProgress.resumed
  split <;> rfl

/-- With words left, a write goes on without a slot run; with none left it stands as it is. -/
theorem resumed_eq (p : WriteProgress) : p.resumed = { p with run := if p.todo = [] then p.run else none } := by
  obtain ⟨addr, taken, todo, run, hold, stall⟩ := p
  cases todo <;> rfl

/-! ## A write at a free port (R156) -/

/-- A write that arrives while nothing waits has its words taken at once, and then passes or stays. -/
theorem arrive_write {s : State} (h : s.tp.upstream = []) (w : WriteBurst) :
    s.arrive (.write (newWrite w)) =
      settleWrite (takeWords (burstWords w) (newWrite w) s).1 [] (takeWords (burstWords w) (newWrite w) s).2 := by
  have e : s.withTp { s.tp with upstream := [] } = s := by rw [← h]; rfl
  have front : s.arrive (.write (newWrite w)) =
      advanceWrite (newWrite w) [] (s.withTp { s.tp with upstream := [.write (newWrite w)] }) := by
    simp only [State.arrive, h]
    rfl
  have port : ∀ u, (s.withTp { s.tp with upstream := u }).withTp
      { (s.withTp { s.tp with upstream := u }).tp with upstream := [] } = s := fun _ => e
  rw [front, advanceWrite, port, newWrite_resumed]
  rfl

end Sys2Proof.Machine
end

