-- ==== Sys2Proof/Laws/Operands.lean ====
section
/-! SUPPORT. The fields of a directive's words read back as they were written (section 11.2). -/

namespace Sys2Proof.Machine

/-- The bits of a field, as a number. -/
theorem field_toNat (w : Word) (lo n : Nat) : (bits w lo n).toNat = w.toNat / 2 ^ lo % 2 ^ n := by
  simp [bits, Nat.shiftRight_eq_div_pow]

@[simp] theorem bits_quarters_0 (a b c d : BitVec 8) : bits (quarters a b c d) 0 8 = d := by
  apply BitVec.eq_of_toNat_eq
  simp only [field_toNat, quarters, BitVec.toNat_ofNat]
  omega

@[simp] theorem bits_quarters_8 (a b c d : BitVec 8) : bits (quarters a b c d) 8 8 = c := by
  apply BitVec.eq_of_toNat_eq
  simp only [field_toNat, quarters, BitVec.toNat_ofNat]
  omega

@[simp] theorem bits_quarters_16 (a b c d : BitVec 8) : bits (quarters a b c d) 16 8 = b := by
  apply BitVec.eq_of_toNat_eq
  simp only [field_toNat, quarters, BitVec.toNat_ofNat]
  omega

@[simp] theorem bits_quarters_24 (a b c d : BitVec 8) : bits (quarters a b c d) 24 8 = a := by
  apply BitVec.eq_of_toNat_eq
  simp only [field_toNat, quarters, BitVec.toNat_ofNat]
  omega

@[simp] theorem bits_halves_0 (u l : BitVec 16) : bits (halves u l) 0 16 = l := by
  apply BitVec.eq_of_toNat_eq
  simp only [field_toNat, halves, BitVec.toNat_ofNat]
  omega

@[simp] theorem bits_halves_16 (u l : BitVec 16) : bits (halves u l) 16 16 = u := by
  apply BitVec.eq_of_toNat_eq
  simp only [field_toNat, halves, BitVec.toNat_ofNat]
  omega

@[simp] theorem bits_wordZero_0 (u : BitVec 24) (c : BitVec 8) : bits (wordZero u c) 0 8 = c := by
  apply BitVec.eq_of_toNat_eq
  simp only [field_toNat, wordZero, BitVec.toNat_ofNat]
  omega

@[simp] theorem bits_lowPair (x : BitVec 2) (c : BitVec 8) : bits (wordZero (lowPair x) c) 8 2 = x := by
  apply BitVec.eq_of_toNat_eq
  simp only [field_toNat, wordZero, lowPair, BitVec.toNat_ofNat]
  omega

theorem bits_sweepFlags_kind (o : SweepOperands) (c : BitVec 8) : bits (wordZero (sweepFlags o) c) 8 2 = o.kind := by
  apply BitVec.eq_of_toNat_eq
  have := o.atSpeed.toNat_le
  simp only [field_toNat, wordZero, sweepFlags, BitVec.toNat_ofNat]
  omega

theorem bits_sweepFlags_passes (o : SweepOperands) (c : BitVec 8) :
    bits (wordZero (sweepFlags o) c) 10 2 = o.passes := by
  apply BitVec.eq_of_toNat_eq
  have := o.atSpeed.toNat_le
  simp only [field_toNat, wordZero, sweepFlags, BitVec.toNat_ofNat]
  omega

theorem bits_sweepFlags_trigger (o : SweepOperands) (c : BitVec 8) :
    bits (wordZero (sweepFlags o) c) 12 2 = o.trigger := by
  apply BitVec.eq_of_toNat_eq
  have := o.atSpeed.toNat_le
  simp only [field_toNat, wordZero, sweepFlags, BitVec.toNat_ofNat]
  omega

theorem bits_sweepFlags_atSpeed (o : SweepOperands) (c : BitVec 8) :
    (bits (wordZero (sweepFlags o) c) 16 1 == 1#1) = o.atSpeed := by
  have h : (bits (wordZero (sweepFlags o) c) 16 1).toNat = o.atSpeed.toNat := by
    have := o.atSpeed.toNat_le
    simp only [field_toNat, wordZero, sweepFlags, BitVec.toNat_ofNat]
    omega
  have h1 : bits (wordZero (sweepFlags o) c) 16 1 = BitVec.ofBool o.atSpeed := by
    apply BitVec.eq_of_toNat_eq
    rw [h]
    cases o.atSpeed <;> rfl
  rw [h1]
  cases o.atSpeed <;> rfl

end Sys2Proof.Machine
end

