-- ==== Sys2Proof/Laws/PerInstr.lean ====
section
/-! SUPPORT. For each command: the operands of its directive, if it carries one, are read back from the mailbox words as
they were written (section 11.2). -/

namespace Sys2Proof.Laws

open Sys2Proof.Machine

/-- The directive a command carries is the one its mailbox words spell, operand for operand. -/
def OperandsArrive.Statement (i : Instr) : Prop := ∀ d, i.directive = some d → readDirective (directiveWords d) = some d

/-- A command that carries no directive. -/
theorem OperandsArrive_none {i : Instr} (h : i.directive = none) : OperandsArrive.Statement i := by
  intro d hd
  rw [h] at hd
  cases hd

/-- A command that carries the directive `d`. -/
theorem OperandsArrive_some {i : Instr} {d : Directive} (h : i.directive = some d)
    (hd : readDirective (directiveWords d) = some d) : OperandsArrive.Statement i := by
  intro x hx
  rw [h] at hx
  cases hx
  exact hd

theorem OperandsArrive.resetAssert : OperandsArrive.Statement .resetAssert :=
  OperandsArrive_none rfl

theorem OperandsArrive.resetRelease (strap1 : Bool) (strap0 : Bool) : OperandsArrive.Statement (.resetRelease strap1 strap0) :=
  OperandsArrive_none rfl

theorem OperandsArrive.captureWrite (w : WriteBurst) : OperandsArrive.Statement (.captureWrite w) :=
  OperandsArrive_none rfl

theorem OperandsArrive.mailboxWrite (w : WriteBurst) : OperandsArrive.Statement (.mailboxWrite w) :=
  OperandsArrive_none rfl

theorem OperandsArrive.unknownKind (go : Word) : OperandsArrive.Statement (.unknownKind go) :=
  OperandsArrive_none rfl

theorem OperandsArrive.setWindows (o : WindowOperands) : OperandsArrive.Statement (.setWindows o) :=
  OperandsArrive_some rfl (by simp [directiveWords, readDirective, kindCode])

theorem OperandsArrive.setGeometry (o : GeometryOperands) : OperandsArrive.Statement (.setGeometry o) :=
  OperandsArrive_some rfl (by simp [directiveWords, readDirective, kindCode])

theorem OperandsArrive.setZones (o : ZoneOperands) : OperandsArrive.Statement (.setZones o) :=
  OperandsArrive_some rfl (by
    simp [directiveWords, readDirective, kindCode]
    obtain ⟨first, count, tracks⟩ := o
    congr 1
    ext i hi
    rcases i with _ | _ | _ | _ | _ | _ | i
    · rfl
    · rfl
    · rfl
    · rfl
    · rfl
    · rfl
    · omega)

theorem OperandsArrive.setHead (o : HeadOperands) : OperandsArrive.Statement (.setHead o) :=
  OperandsArrive_some rfl (by simp [directiveWords, readDirective, kindCode])

theorem OperandsArrive.setFollow (o : FollowOperands) : OperandsArrive.Statement (.setFollow o) :=
  OperandsArrive_some rfl (by simp [directiveWords, readDirective, kindCode])

theorem OperandsArrive.setTimebase (o : TimebaseOperands) : OperandsArrive.Statement (.setTimebase o) :=
  OperandsArrive_some rfl (by simp [directiveWords, readDirective, kindCode])

theorem OperandsArrive.setIndex (o : IndexOperands) : OperandsArrive.Statement (.setIndex o) :=
  OperandsArrive_some rfl (by simp [directiveWords, readDirective, kindCode])

theorem OperandsArrive.setTimer (o : TimerOperands) : OperandsArrive.Statement (.setTimer o) :=
  OperandsArrive_some rfl (by simp [directiveWords, readDirective, kindCode])

theorem OperandsArrive.setReports (mask : Word) : OperandsArrive.Statement (.setReports mask) :=
  OperandsArrive_some rfl (by simp [directiveWords, readDirective, kindCode])

theorem OperandsArrive.sweep (o : SweepOperands) : OperandsArrive.Statement (.sweep o) :=
  OperandsArrive_some rfl (by simp [directiveWords, readDirective, kindCode, bits_sweepFlags_kind, bits_sweepFlags_passes, bits_sweepFlags_trigger, bits_sweepFlags_atSpeed])

theorem OperandsArrive.halt : OperandsArrive.Statement .halt :=
  OperandsArrive_some rfl (by simp [directiveWords, readDirective, kindCode])

theorem OperandsArrive.clearHead (head : BitVec 8) : OperandsArrive.Statement (.clearHead head) :=
  OperandsArrive_some rfl (by simp [directiveWords, readDirective, kindCode])

theorem OperandsArrive.clearHistory (head : BitVec 8) : OperandsArrive.Statement (.clearHistory head) :=
  OperandsArrive_some rfl (by simp [directiveWords, readDirective, kindCode])

theorem OperandsArrive.setImage (o : ImageOperands) : OperandsArrive.Statement (.setImage o) :=
  OperandsArrive_some rfl (by simp [directiveWords, readDirective, kindCode])

theorem OperandsArrive.mapField (o : FieldOperands) : OperandsArrive.Statement (.mapField o) :=
  OperandsArrive_some rfl (by simp [directiveWords, readDirective, kindCode])

theorem OperandsArrive.clearMap : OperandsArrive.Statement .clearMap :=
  OperandsArrive_some rfl (by simp [directiveWords, readDirective, kindCode])

theorem OperandsArrive.publish : OperandsArrive.Statement .publish :=
  OperandsArrive_some rfl (by simp [directiveWords, readDirective, kindCode])

theorem OperandsArrive.release : OperandsArrive.Statement .release :=
  OperandsArrive_some rfl (by simp [directiveWords, readDirective, kindCode])

theorem OperandsArrive.outcomeRecordEntry : OperandsArrive.Statement .outcomeRecordEntry :=
  OperandsArrive_none rfl

theorem OperandsArrive.resultRecordEntry : OperandsArrive.Statement .resultRecordEntry :=
  OperandsArrive_none rfl

theorem OperandsArrive.reportGrant : OperandsArrive.Statement .reportGrant :=
  OperandsArrive_none rfl

theorem OperandsArrive.insertIssue : OperandsArrive.Statement .insertIssue :=
  OperandsArrive_none rfl

theorem OperandsArrive.insertWriteOkay : OperandsArrive.Statement .insertWriteOkay :=
  OperandsArrive_none rfl

theorem OperandsArrive.insertWriteError : OperandsArrive.Statement .insertWriteError :=
  OperandsArrive_none rfl

theorem OperandsArrive.heldTransactionRelease : OperandsArrive.Statement .heldTransactionRelease :=
  OperandsArrive_none rfl

theorem OperandsArrive.resultReadNotice (b : BusRead) : OperandsArrive.Statement (.resultReadNotice b) :=
  OperandsArrive_none rfl

theorem OperandsArrive.consumptionNotice (b : BusRead) : OperandsArrive.Statement (.consumptionNotice b) :=
  OperandsArrive_none rfl

theorem OperandsArrive.imageWrite (w : WriteBurst) : OperandsArrive.Statement (.imageWrite w) :=
  OperandsArrive_none rfl

theorem OperandsArrive.imageRead (b : BusRead) : OperandsArrive.Statement (.imageRead b) :=
  OperandsArrive_none rfl

theorem OperandsArrive.upstreamWrite (b : BusWrite) : OperandsArrive.Statement (.upstreamWrite b) :=
  OperandsArrive_none rfl

theorem OperandsArrive.tick : OperandsArrive.Statement .tick :=
  OperandsArrive_none rfl

theorem OperandsArrive.indexEvent (e : Edge) : OperandsArrive.Statement (.indexEvent e) :=
  OperandsArrive_none rfl

theorem OperandsArrive.indexTimeout : OperandsArrive.Statement .indexTimeout :=
  OperandsArrive_none rfl

theorem OperandsArrive.timerExpiry : OperandsArrive.Statement .timerExpiry :=
  OperandsArrive_none rfl

theorem OperandsArrive.srefLoss : OperandsArrive.Statement .srefLoss :=
  OperandsArrive_none rfl

theorem OperandsArrive.srefRisingEdge : OperandsArrive.Statement .srefRisingEdge :=
  OperandsArrive_none rfl

end Sys2Proof.Laws
end

