-- ==== Sys2Proof/Laws/Mailbox.lean ====
section
/-! SUPPORT. What the mailbox does with a word (R147), and what a whole directive written as one burst does (R148, R151). -/

namespace Sys2Proof.Machine

/-- A full word of the mailbox below the go word is latched and passes (R147). -/
theorem takeWord_mailbox {s : State} {b : Nat} (hb : s.tp.controlBase = some b) (n : Nat) (hn : n < 7) (data : Word)
    (run : Option SlotRun) :
    takeWord s { addr := b + 4 * n, data := data, enables := 0xF } run =
      passWord (s.withDd { s.dd with latch := s.dd.latch.set n data, marks := s.dd.marks.set n true })
        { addr := b + 4 * n, data := data, enables := 0xF } none := by
  have h8 : n < 8 := by omega
  simp [takeWord, WordWrite.unwritten, decodeWrite_mailbox hb s.ip n h8, takeMailbox, hn, DirectiveDecoder.latchWord,
    WordWrite.full]

/-- A full go word takes the directive (R148, R151). -/
theorem takeWord_go {s : State} {b : Nat} (hb : s.tp.controlBase = some b) (data : Word) (run : Option SlotRun) :
    takeWord s { addr := b + 28, data := data, enables := 0xF } run =
      takeGo s { addr := b + 28, data := data, enables := 0xF } := by
  have h := decodeWrite_mailbox hb s.ip 7 (by omega)
  simp only [Nat.reduceMul] at h
  simp [takeWord, WordWrite.unwritten, h, takeMailbox, WordWrite.full]

/-- All seven words of a latch set, one after another. -/
theorem latch_all (l w : Vector Word 7) :
    ((((((l.set 0 w[0]).set 1 w[1]).set 2 w[2]).set 3 w[3]).set 4 w[4]).set 5 w[5]).set 6 w[6] = w := by
  ext i hi
  rcases i with _ | _ | _ | _ | _ | _ | _ | i
  all_goals first
    | omega
    | simp

/-- All seven marks set, one after another. -/
theorem marks_all (m : Vector Bool 7) :
    ((((((m.set 0 true).set 1 true).set 2 true).set 3 true).set 4 true).set 5 true).set 6 true =
      Vector.replicate 7 true := by
  ext i hi
  rcases i with _ | _ | _ | _ | _ | _ | _ | i
  all_goals first
    | omega
    | simp

/-- The state when the go word of a whole directive is reached: words 0 to 6 latched and marked. -/
def latched (d : Directive) (s : State) : State :=
  { s with dd := { s.dd with latch := directiveWords d, marks := Vector.replicate 7 true } }

/-- Full words of the mailbox from word `k` on. -/
def mailWords (b : Nat) : Nat → List Word → List WordWrite
  | _, [] => []
  | k, x :: xs => { addr := b + 4 * k, data := x, enables := 0xF } :: mailWords b (k + 1) xs

/-- The Directive Decoder after full words of the mailbox from word `k` on. -/
def latchFrom : Nat → List Word → DirectiveDecoder → DirectiveDecoder
  | _, [], dd => dd
  | k, x :: xs, dd =>
    latchFrom (k + 1) xs
      (if h : k < 7 then { dd with latch := dd.latch.set k x, marks := dd.marks.set k true } else dd)

/-- Full words of the mailbox below the go word are latched, one after another, and hold the write for nothing. -/
theorem takeWords_mail {b : Nat} (rest : List WordWrite) (xs : List Word) :
    ∀ (k : Nat) (p : WriteProgress) (s : State), k + xs.length ≤ 7 → s.tp.controlBase = some b →
      QueueClear s.tp.queue b 32 → p.run = none → p.hold = 0 →
      takeWords (mailWords b k xs ++ rest) p s =
        takeWords rest { p with taken := p.taken ++ mailWords b k xs } (s.withDd (latchFrom k xs s.dd)) := by
  induction xs with
  | nil =>
    intro k p s _ _ _ _ _
    simp [mailWords, latchFrom, State.withDd]
  | cons x xs ih =>
    intro k p s hk hb hq hrun hhold
    obtain ⟨addr, tk, todo, run, hold, stall⟩ := p
    simp only at hrun hhold
    subst hrun hhold
    simp only [List.length_cons] at hk
    have hk7 : k < 7 := by omega
    have ht := takeWord_mailbox hb k hk7 x none
    have hd : holdDepth s.tp.queue { addr := b + 4 * k, data := x, enables := 0xF } = 0 :=
      holdDepth_clear (hq.sub (by simp only []; omega) (by simp only []; omega))
    rw [mailWords, List.cons_append, takeWords_cons _ _ _ _ (by rw [ht]; rfl), ht]
    simp only [passWord, hd, Nat.max_self]
    rw [ih (k + 1) _ _ (by omega) (by exact hb) (by exact hq) rfl rfl]
    simp [latchFrom, hk7]

/-- The words of a directive burst are words 0 to 6 of the mailbox, and the go word. -/
theorem directiveBurst_mail {b : Nat} {s : State} (h : Running b s) (d : Directive) :
    burstWords (directiveBurst b d) = mailWords b 0 (directiveWords d).toList ++
      [{ addr := b + 28, data := 0, enables := 0xF }] := by
  rw [directiveBurst_words h]
  have hl : (directiveWords d).toList = [(directiveWords d)[0], (directiveWords d)[1], (directiveWords d)[2],
      (directiveWords d)[3], (directiveWords d)[4], (directiveWords d)[5], (directiveWords d)[6]] := by
    apply List.ext_getElem (by simp)
    intro i h1 h2
    simp at h1
    rcases i with _ | _ | _ | _ | _ | _ | _ | i
    all_goals first
      | omega
      | simp
  rw [hl]
  simp [mailWords]

/-- All seven words of a directive latched. -/
theorem latchFrom_all (w : Vector Word 7) (dd : DirectiveDecoder) :
    latchFrom 0 w.toList dd = { dd with latch := w, marks := Vector.replicate 7 true } := by
  have hl : w.toList = [w[0], w[1], w[2], w[3], w[4], w[5], w[6]] := by
    apply List.ext_getElem (by simp)
    intro i h1 h2
    simp at h1
    rcases i with _ | _ | _ | _ | _ | _ | _ | i
    all_goals first
      | omega
      | simp
  rw [hl]
  simp [latchFrom, latch_all, marks_all]

/-- The words of a directive burst are taken one after another, and its go word takes the directive. -/
theorem takeWords_directive {s : State} {b : Nat} (h : DirectiveReady b s) (d : Directive) :
    takeWords (burstWords (directiveBurst b d)) (newWrite (directiveBurst b d)) s =
      takeWords [{ addr := b + 28, data := 0, enables := 0xF }]
        { newWrite (directiveBurst b d) with taken := mailWords b 0 (directiveWords d).toList } (latched d s) := by
  obtain ⟨⟨hr, hu⟩, hq, hh, hl⟩ := h
  rw [directiveBurst_mail hr,
    takeWords_mail [{ addr := b + 28, data := 0, enables := 0xF }] _ 0 (newWrite (directiveBurst b d)) _ (by simp)
      (by exact hr.2.1) (by exact hq) rfl rfl,
    latchFrom_all]
  rfl

end Sys2Proof.Machine
end

