-- ==== Sys2Proof/Laws/Directives.lean ====
section
/-! SUPPORT. What the owner of a directive leaves alone, and what a whole directive written while the part is ready for it
does (R148, R151). -/

namespace Sys2Proof.Machine

/-- Entering ARMED, and the pass that starts, touch the sweep record and the pending entries alone. -/
theorem arm_keeps (s : State) : s.arm = (s.withSc s.arm.sc).withRa s.arm.ra := by
  simp only [State.arm]
  split <;> rfl

/-- A frame abandoned touches the Frame Reducer and the pending entries alone. -/
theorem abandonFrame_keeps (s : State) : s.abandonFrame = (s.withFr s.abandonFrame.fr).withRa s.abandonFrame.ra := by
  simp only [State.abandonFrame]
  split <;> rfl

/-- A halt touches the sweep record and the pending entries alone. -/
theorem haltSweep_keeps (s : State) : s.haltSweep = (s.withSc s.haltSweep.sc).withRa s.haltSweep.ra := by
  simp only [State.haltSweep]
  split <;> rfl

/-- What no owner of a directive touches: the mailbox latch, the ports, the level of RESET, the commands that wait, and
all of the Transfer Path but its windows. -/
structure OwnerKeeps (s t : State) : Prop where
  resetLow : t.resetLow = s.resetLow
  pending : t.pending = s.pending
  dd : t.dd = s.dd
  ports : t.ports = s.ports
  controlBase : t.tp.controlBase = s.tp.controlBase
  queue : t.tp.queue = s.tp.queue
  inFlight : t.tp.inFlight = s.tp.inFlight
  upstream : t.tp.upstream = s.tp.upstream
  outstanding : t.tp.outstanding = s.tp.outstanding

/-- Nothing is touched. -/
theorem OwnerKeeps.same (s : State) : OwnerKeeps s s := ⟨rfl, rfl, rfl, rfl, rfl, rfl, rfl, rfl, rfl⟩

/-- A directive that is applied. -/
theorem applyDirective_keeps (d : Directive) (s : State) : OwnerKeeps s (applyDirective d s) := by
  cases d
  case setWindows o =>
    simp only [applyDirective, applyWindows]
    rw [abandonFrame_keeps]
    split <;> exact ⟨rfl, rfl, rfl, rfl, rfl, rfl, rfl, rfl, rfl⟩
  case setGeometry o =>
    simp only [applyDirective, applyGeometry]
    rw [abandonFrame_keeps]
    exact ⟨rfl, rfl, rfl, rfl, rfl, rfl, rfl, rfl, rfl⟩
  case setZones o =>
    simp only [applyDirective, applyZones]
    rw [abandonFrame_keeps]
    exact ⟨rfl, rfl, rfl, rfl, rfl, rfl, rfl, rfl, rfl⟩
  case sweep o =>
    simp only [applyDirective, applySweep]
    rw [arm_keeps]
    exact ⟨rfl, rfl, rfl, rfl, rfl, rfl, rfl, rfl, rfl⟩
  case halt =>
    simp only [applyDirective]
    rw [haltSweep_keeps]
    exact ⟨rfl, rfl, rfl, rfl, rfl, rfl, rfl, rfl, rfl⟩
  all_goals exact ⟨rfl, rfl, rfl, rfl, rfl, rfl, rfl, rfl, rfl⟩

/-- A directive handed to its owner, taken or refused. -/
theorem ownDirective_keeps (d : Directive) (s : State) : OwnerKeeps s (ownDirective d s) := by
  simp only [ownDirective]
  split
  · exact applyDirective_keeps d s
  · exact OwnerKeeps.same s

/-- A refused directive changes nothing at its owner (R148). -/
theorem ownDirective_refused {d : Directive} {s : State} (h : (judgeDirective d s).code.isTaken = false) :
    ownDirective d s = s := by
  simp [ownDirective, h]

/-- A taken directive is applied. -/
theorem ownDirective_taken {d : Directive} {s : State} (h : (judgeDirective d s).code.isTaken = true) :
    ownDirective d s = applyDirective d s := by
  simp [ownDirective, h]

/-- An outcome record entering spoils no notice. -/
theorem spoilNotice_outcome (l : List Outstanding) : l.map (spoilNotice .outcome) = l := by
  induction l with
  | nil => rfl
  | cons x l ih => cases x <;> simp [spoilNotice, ih]

/-- The first word of a directive names its kind. -/
theorem directiveWords_kind (d : Directive) : bits (directiveWords d)[0] 0 8 = kindCode d := by
  cases d <;> simp [directiveWords, kindCode]

/-- A latch with all its marks set has no unmarked word. -/
theorem unmarkedWords_none {dd : DirectiveDecoder} (h : dd.marks = Vector.replicate 7 true) : unmarkedWords dd = 0 := by
  simp only [unmarkedWords, h]
  decide

/-- Every directive is read back from its words. -/
theorem readDirective_directiveWords (d : Directive) : readDirective (directiveWords d) = some d := by
  cases d
  case setWindows o => exact Laws.OperandsArrive.setWindows o _ rfl
  case setGeometry o => exact Laws.OperandsArrive.setGeometry o _ rfl
  case setZones o => exact Laws.OperandsArrive.setZones o _ rfl
  case setHead o => exact Laws.OperandsArrive.setHead o _ rfl
  case setFollow o => exact Laws.OperandsArrive.setFollow o _ rfl
  case setTimebase o => exact Laws.OperandsArrive.setTimebase o _ rfl
  case setIndex o => exact Laws.OperandsArrive.setIndex o _ rfl
  case setTimer o => exact Laws.OperandsArrive.setTimer o _ rfl
  case setReports m => exact Laws.OperandsArrive.setReports m _ rfl
  case sweep o => exact Laws.OperandsArrive.sweep o _ rfl
  case halt => exact Laws.OperandsArrive.halt _ rfl
  case clearHead h => exact Laws.OperandsArrive.clearHead h _ rfl
  case clearHistory h => exact Laws.OperandsArrive.clearHistory h _ rfl
  case setImage o => exact Laws.OperandsArrive.setImage o _ rfl
  case mapField o => exact Laws.OperandsArrive.mapField o _ rfl
  case clearMap => exact Laws.OperandsArrive.clearMap _ rfl
  case publish => exact Laws.OperandsArrive.publish _ rfl
  case release => exact Laws.OperandsArrive.release _ rfl

/-- The outcome record built for a whole directive (R149). -/
def outcomeRecordOf (d : Directive) (v : Verdict) (s : State) : OutcomeRecord :=
  { kind := kindCode d, code := v.code, count := (s.dd.count + 1) % 65536, detail := BitVec.ofNat 32 v.detail }

/-- That record as it stands in the queue (R161). -/
def queuedOutcome (b : Nat) (d : Directive) (v : Verdict) (s : State) : QueueEntry :=
  { addr := b + 0x20, words := outcomeWords (outcomeRecordOf d v s), kind := .outcome }

/-- The go word of a whole directive, with room in the queue: the owner acts, and the outcome record enters at once. -/
theorem takeGo_directive {s : State} {b : Nat} (h : DirectiveReady b s) (d : Directive) (w : WordWrite) :
    takeGo (latched d s) w =
      { state := ((ownDirective d (latched d s)).withTp { (ownDirective d (latched d s)).tp with
            queue := s.tp.queue ++ [queuedOutcome b d (judgeDirective d (latched d s)) s] }).withDd (decoderAfter d s)
        data := w.data
        run := none
        stall := none } := by
  obtain ⟨⟨hr, hu⟩, hq, hh, hl⟩ := h
  have hk := ownDirective_keeps d (latched d s)
  have hjl : judgeLatch (latched d s) = (judgeDirective d (latched d s), ownDirective d (latched d s)) := by
    simp only [judgeLatch]
    rw [unmarkedWords_none (by rfl)]
    simp [latched, readDirective_directiveWords]
  have hkind : outcomeKind (latched d s).dd = kindCode d := by
    simp [outcomeKind, latched, directiveWords_kind]
  have hq' : (ownDirective d (latched d s)).tp.queue = s.tp.queue := hk.queue
  have hb' : (ownDirective d (latched d s)).tp.controlBase = some b := by rw [hk.controlBase]; exact hr.2.1
  have hfree : 0 < freeEntries (ownDirective d (latched d s)).tp := by
    simp only [freeEntries, hq', Config.queueEntries]
    omega
  simp only [takeGo, State.takeDirective, hjl, hkind, State.tryEnterOutcome, State.withDd_dd, State.withDd_tp, hfree,
    if_true, State.enterOutcome, enqueue, hq', hb', spoilNotice_outcome]
  rfl

/-- A whole directive written while the part is ready for it: its owner judges and acts, the outcome record stands last in
the queue, and the words go on to memory as written. -/
theorem writeDirective_ready {s : State} {b : Nat} (h : DirectiveReady b s) (d : Directive) :
    s.writeDirective d =
      { ownDirective d (latched d s) with
        dd := decoderAfter d s
        tp := { (ownDirective d (latched d s)).tp with
          queue := s.tp.queue ++ [outcomeEntry b d (judgeDirective d (latched d s)).code.code
            (judgeDirective d (latched d s)).detail s]
          upstream := []
          outstanding := s.tp.outstanding ++ [.write b] }
        ports := { s.ports with down := s.ports.down ++ [.write b (burstWords (directiveBurst b d))] } } := by
  have hr := h.1.1
  have hg := takeGo_directive h d { addr := b + 28, data := 0, enables := 0xF }
  have hk := ownDirective_keeps d (latched d s)
  have hd7 : holdDepth (latched d s).tp.queue { addr := b + 28, data := 0, enables := 0xF } = 0 :=
    holdDepth_clear (h.2.1.sub (by simp only []; omega) (by simp only []; omega))
  have hgo := fun run => takeWord_go (s := latched d s) (b := b) hr.2.1 0 run
  have hb : (newWrite (directiveBurst b d)).addr = b := by
    rcases base_cases hr with rfl | rfl | rfl | rfl <;> rfl
  have hwords : queuedOutcome b d (judgeDirective d (latched d s)) s =
      outcomeEntry b d (judgeDirective d (latched d s)).code.code (judgeDirective d (latched d s)).detail s := by
    simp only [queuedOutcome, outcomeEntry, outcomeWords, outcomeRecordOf]
    congr 2
    · generalize (judgeDirective d (latched d s)).code = c
      generalize kindCode d = k
      revert k
      cases c <;> decide
    · congr 1
      have : (s.dd.count + 1) % 65536 < 65536 := Nat.mod_lt _ (by omega)
      simp [place, Nat.mod_eq_of_lt this]
  rw [State.writeDirective, hr.2.1]
  simp only []
  rw [arrive_write h.1.2, takeWords_directive h d, takeWords_cons _ _ _ _ (by rw [hgo, hg])]
  simp only [hgo, hg]
  have hburst := directiveBurst_mail hr d
  simp only [takeWords_nil, settleWrite, hd7, hb, hwords, hburst]
  simp only [State.withTp, State.withDd, State.sendDown, State.withPorts, hk.outstanding, hk.ports]
  rfl

/-- A whole directive that its owner refuses changes no block but the Directive Decoder (R148). -/
theorem writeDirective_refused {s : State} {b : Nat} (h : DirectiveReady b s) (d : Directive) {v : Verdict}
    (hv : judgeDirective d (latched d s) = v) (hr : v.code.isTaken = false) :
    s.writeDirective d = answered b d v.code.code v.detail s := by
  rw [writeDirective_ready h d, ownDirective_refused (by rw [hv]; exact hr), hv]
  have hu := h.1.2
  simp [latched, answered, hu]

/-- A whole directive that its owner takes is applied, and answered (R148). -/
theorem writeDirective_taken {s : State} {b : Nat} (h : DirectiveReady b s) (d : Directive) {v : Verdict}
    (hv : judgeDirective d (latched d s) = v) (hr : v.code.isTaken = true) :
    s.writeDirective d =
      { applyDirective d (latched d s) with
        dd := decoderAfter d s
        tp := { (applyDirective d (latched d s)).tp with
          queue := (answered b d v.code.code v.detail s).tp.queue
          upstream := []
          outstanding := (answered b d v.code.code v.detail s).tp.outstanding }
        ports := (answered b d v.code.code v.detail s).ports } := by
  rw [writeDirective_ready h d, ownDirective_taken (by rw [hv]; exact hr), hv]
  rfl

end Sys2Proof.Machine
end

