-- ==== Sys2Proof/Laws/Words.lean ====
section
/-! SUPPORT. The words of a burst by their addresses (section 10.1), the window each lies in (R158), the notices of a read
(R68, R140), and the words that pass unaltered (R156). -/

namespace Sys2Proof.Machine

/-! ## Where the words of a burst lie -/

/-- A well-formed burst begins at its first beat. -/
theorem firstBeat_of_wf {a : Word} {n : Nat} (h : burstOk a n = true) : firstBeat a = a.toNat := by
  simp only [burstOk, Bool.and_eq_true, decide_eq_true_eq] at h
  simp only [firstBeat]
  omega

/-- A well-formed burst has 1 to 16 beats, at a multiple of 8, inside the address space (section 10.1). -/
theorem burstOk_spec {a : Word} {n : Nat} (h : burstOk a n = true) :
    1 ≤ n ∧ n ≤ 16 ∧ a.toNat % 8 = 0 ∧ a.toNat + 8 * n ≤ 4294967296 := by
  simp only [burstOk, Bool.and_eq_true, decide_eq_true_eq] at h
  obtain ⟨⟨⟨h1, h2⟩, h3⟩, h4⟩ := h
  exact ⟨h1, h2, h3, h4⟩

/-- The words of beats: two to a beat, at addresses 4 apart. -/
theorem beatWords_mem {l : List Beat} {a : Nat} {x : WordWrite} : x ∈ beatWords a l ↔
    ∃ i, ∃ h : i < l.length, x ∈ Beat.words (a + 8 * i) l[i] := by
  induction l generalizing a with
  | nil => simp [beatWords]
  | cons b rest ih =>
    simp only [beatWords, List.mem_append, ih]
    constructor
    · rintro (h | ⟨i, h, hx⟩)
      · exact ⟨0, by simp, by simpa using h⟩
      · refine ⟨i + 1, by simpa using h, ?_⟩
        have : a + 8 * (i + 1) = a + 8 + 8 * i := by omega
        simpa [this] using hx
    · rintro ⟨i, h, hx⟩
      cases i with
      | zero => exact Or.inl (by simpa using hx)
      | succ i =>
        refine Or.inr ⟨i, by simpa using h, ?_⟩
        have : a + 8 * (i + 1) = a + 8 + 8 * i := by omega
        simpa [this] using hx

/-- The words of a beat lie in its eight bytes, word-aligned from its start. -/
theorem beat_addr {a : Nat} {b : Beat} {x : WordWrite} (h : x ∈ Beat.words a b) : x.addr = a ∨ x.addr = a + 4 := by
  simp only [Beat.words, List.mem_cons, List.not_mem_nil, or_false] at h
  rcases h with rfl | rfl
  · exact Or.inl rfl
  · exact Or.inr rfl

/-- The words of a well-formed write lie in its bytes, at multiples of 4. -/
theorem burstWords_addr {w : WriteBurst} (hw : w.wf = true) {x : WordWrite} (hx : x ∈ burstWords w) :
    w.addr.toNat ≤ x.addr ∧ x.addr + 4 ≤ w.addr.toNat + 8 * w.beats.length ∧ x.addr % 4 = 0 := by
  have h8 := burstOk_spec hw
  simp only [burstWords, firstBeat_of_wf hw] at hx
  obtain ⟨i, hi, hx⟩ := beatWords_mem.mp hx
  rcases beat_addr hx with h | h <;> omega

/-! ## The window of a word (R158) -/

/-- A word outside the mailbox. -/
theorem mailboxWord_none {tp : TransferPath} {b a : Nat} (hb : tp.controlBase = some b) (h : a + 4 ≤ b ∨ b + 32 ≤ a) :
    mailboxWord tp a = none := by
  simp only [mailboxWord, hb]
  rw [if_neg (by omega)]

/-- A word outside the capture ring. -/
theorem captureWord_none {tp : TransferPath} {a : Nat}
    (h : ∀ r, tp.captureRing = some r → a + 4 ≤ r.base ∨ r.base + 32 * r.slots ≤ a) : captureWord tp a = none := by
  simp only [captureWord]
  split
  · rename_i r hr
    have := h r hr
    rw [if_neg (by omega)]
  · rfl

/-- A word outside the image window. -/
theorem imageOffset_none {ip : ImagePatcher} {a : Nat}
    (h : ∀ w, ip.window = some w → a + 4 ≤ w.base ∨ w.base + w.length ≤ a) : imageOffset ip a = none := by
  simp only [imageOffset]
  split
  · rename_i w hw
    have := h w hw
    rw [if_neg (by omega)]
  · rfl

/-- A word outside the windows that blocks watch for writes. -/
theorem decodeWrite_elsewhere {s : State} {b a : Nat} (hb : s.tp.controlBase = some b) (h : OutsideWindows b s a) :
    decodeWrite s.tp s.ip a = .elsewhere := by
  obtain ⟨h1, h2, h3⟩ := h
  simp only [decodeWrite, mailboxWord_none hb h1, captureWord_none h2, imageOffset_none h3]

/-- A word of a capture slot, outside the mailbox. -/
theorem decodeWrite_capture {tp : TransferPath} (ip : ImagePatcher) {b : Nat} {r : CaptureRing} {slot n : Nat}
    (hb : tp.controlBase = some b) (hr : tp.captureRing = some r) (hs : slot < r.slots) (hn : n < 8)
    (ho : Apart r.base (32 * r.slots) b 4096) :
    decodeWrite tp ip (r.base + 32 * slot + 4 * n) = .capture slot n := by
  simp only [Apart] at ho
  have h1 : mailboxWord tp (r.base + 32 * slot + 4 * n) = none := mailboxWord_none hb (by omega)
  have h2 : captureWord tp (r.base + 32 * slot + 4 * n) = some (slot, n) := by
    simp only [captureWord, hr]
    rw [if_pos ⟨by omega, by omega⟩]
    congr 2 <;> omega
  simp only [decodeWrite, h1, h2]

/-- A word of the image window, outside the mailbox and the capture ring. -/
theorem decodeWrite_image {tp : TransferPath} {ip : ImagePatcher} {b a : Nat} {w : ImageWindow}
    (hb : tp.controlBase = some b) (hw : ip.window = some w) (h1 : a + 4 ≤ b ∨ b + 32 ≤ a)
    (h2 : ∀ r, tp.captureRing = some r → a + 4 ≤ r.base ∨ r.base + 32 * r.slots ≤ a)
    (h3 : w.base ≤ a ∧ a < w.base + w.length) : decodeWrite tp ip a = .image (a - w.base) := by
  simp only [decodeWrite, mailboxWord_none hb h1, captureWord_none h2, imageOffset, hw, if_pos h3]

/-! ## Words that pass (R156) -/

/-- A word with no byte enables set passes, and nothing takes it (R2, R147). -/
theorem takeWord_unwritten {s : State} {w : WordWrite} (h : w.enables = 0) (run : Option SlotRun) :
    takeWord s w run = passWord s w run := by
  simp [takeWord, WordWrite.unwritten, h]

/-- A written word outside the windows passes, and nothing takes it (R158). -/
theorem takeWord_elsewhere {s : State} {w : WordWrite} (h : w.enables ≠ 0)
    (hd : decodeWrite s.tp s.ip w.addr = .elsewhere) (run : Option SlotRun) :
    takeWord s w run = passWord s w none := by
  have h' : w.unwritten = false := by simpa [WordWrite.unwritten] using h
  simp only [takeWord, h', hd]
  rfl

/-- A written word of the image window is taken by the Image Patcher and passes (R116). -/
theorem takeWord_image {s : State} {w : WordWrite} {o : Nat} (h : w.enables ≠ 0)
    (hd : decodeWrite s.tp s.ip w.addr = .image o) (run : Option SlotRun) :
    takeWord s w run = passWord (s.withIp (s.ip.write o w.data w.enables)) w none := by
  have h' : w.unwritten = false := by simpa [WordWrite.unwritten] using h
  simp only [takeWord, h', hd]
  rfl

/-- A written word of a capture slot is taken by the Frame Reducer (R2). -/
theorem takeWord_capture {s : State} {w : WordWrite} {slot n : Nat} (h : w.enables ≠ 0)
    (hd : decodeWrite s.tp s.ip w.addr = .capture slot n) (run : Option SlotRun) :
    takeWord s w run = takeCapture s w run slot n := by
  have h' : w.unwritten = false := by simpa [WordWrite.unwritten] using h
  simp only [takeWord, h', hd]
  rfl

/-- Words that change the state by `f`, one after another, pass as they are and hold the write for nothing, when no
queued record shares a byte with them. -/
theorem takeWords_pass (f : State → WordWrite → State) (Q : WordWrite → Prop) (P : State → Prop)
    (step : ∀ s w run, P s → Q w → P (f s w) ∧ (f s w).tp.queue = s.tp.queue ∧
      ∃ r, takeWord s w run = passWord (f s w) w r) :
    ∀ (ws : List WordWrite) (p : WriteProgress) (s : State), P s → (∀ w ∈ ws, Q w) →
      (∀ w ∈ ws, QueueClear s.tp.queue w.addr 4) → p.hold = 0 →
      ∃ r, takeWords ws p s = ({ p with taken := p.taken ++ ws, todo := [], stall := none, run := r }, ws.foldl f s) := by
  intro ws
  induction ws with
  | nil =>
    intro p s _ _ _ _
    exact ⟨p.run, by simp⟩
  | cons w rest ih =>
    intro p s hp hq hc hh
    obtain ⟨h1, h2, r, h3⟩ := step s w p.run hp (hq w List.mem_cons_self)
    have hd : holdDepth s.tp.queue w = 0 := holdDepth_clear (hc w List.mem_cons_self)
    rw [takeWords_cons _ _ _ _ (by rw [h3]; rfl), h3]
    simp only [passWord, hd, hh, Nat.max_self]
    obtain ⟨r', h⟩ := ih { p with taken := p.taken ++ [w], run := r, hold := 0 } (f s w) h1
      (fun x hx => hq x (List.mem_cons_of_mem _ hx))
      (by rw [h2]; exact fun x hx => hc x (List.mem_cons_of_mem _ hx)) rfl
    refine ⟨r', ?_⟩
    rw [h]
    cases p
    simp_all

/-- A write at a free port whose words all pass as they are: it goes downstream at once (R156). -/
theorem arrive_passes {s t : State} {w : WriteBurst} (hu : s.tp.upstream = []) {r : Option SlotRun}
    (h : takeWords (burstWords w) (newWrite w) s =
      ({ newWrite w with taken := burstWords w, todo := [], stall := none, run := r }, t)) :
    s.arrive (.write (newWrite w)) =
      (t.withTp { t.tp with upstream := [], outstanding := t.tp.outstanding ++ [.write w.addr.toNat] }).sendDown
        (.write w.addr.toNat (burstWords w)) := by
  rw [arrive_write hu, h]
  rfl

/-! ## The write of a record (R168) -/

/-- The burst that writes a record carries its eight words, every byte enable set, at its address (R162, R168). -/
theorem recordBurst_words {e : QueueEntry} (ha : e.addr % 8 = 0) (hb : e.addr + 32 ≤ 4294967296) (hw : e.words.length = 8) :
    burstWords (recordBurst e) =
      List.zipWith (fun i x => { addr := e.addr + 4 * i, data := x, enables := 0xF }) (List.range 8) e.words := by
  have h1 : firstBeat (BitVec.ofNat 32 e.addr) = e.addr := by
    simp only [firstBeat, BitVec.toNat_ofNat]
    omega
  match hl : e.words, hw with
  | [w0, w1, w2, w3, w4, w5, w6, w7], _ =>
    simp only [burstWords, recordBurst, recordBeat, h1, beatWords, beat_full, hl]
    rfl

/-! ## The notices of a read (R68, R140) -/

/-- The words of lanes: two to a beat, at addresses 4 apart. -/
theorem laneWords_mem {l : List (BitVec 8)} {a : Nat} {x : WordWrite} : x ∈ laneWords a l ↔
    ∃ i, ∃ h : i < l.length, x ∈ Beat.words (a + 8 * i) { data := 0, lanes := l[i] } := by
  induction l generalizing a with
  | nil => simp [laneWords]
  | cons b rest ih =>
    simp only [laneWords, List.mem_append, ih]
    constructor
    · rintro (h | ⟨i, h, hx⟩)
      · exact ⟨0, by simp, by simpa using h⟩
      · refine ⟨i + 1, by simpa using h, ?_⟩
        have : a + 8 * (i + 1) = a + 8 + 8 * i := by omega
        simpa [this] using hx
    · rintro ⟨i, h, hx⟩
      cases i with
      | zero => exact Or.inl (by simpa using hx)
      | succ i =>
        refine Or.inr ⟨i, by simpa using h, ?_⟩
        have : a + 8 * (i + 1) = a + 8 + 8 * i := by omega
        simpa [this] using hx

/-- A byte is asked for by a word of the read exactly when its lane is set. -/
theorem readWords_byte {r : ReadBurst} (hr : r.wf = true) (a : Nat) (ha : a % 4 = 0) :
    (∃ x ∈ readWords r, x.addr = a ∧ x.enables ≠ 0) ↔
      ∃ i j : Nat, j < 8 ∧ (r.lanes.getD i 0).getLsbD j = true ∧ a ≤ r.addr.toNat + 8 * i + j ∧
        r.addr.toNat + 8 * i + j < a + 4 := by
  have h8 := burstOk_spec hr
  simp only [readWords, firstBeat_of_wf hr]
  constructor
  · rintro ⟨x, hx, rfl, he⟩
    obtain ⟨i, hi, hx⟩ := laneWords_mem.mp hx
    simp only [Beat.words, List.mem_cons, List.not_mem_nil, or_false] at hx
    rcases hx with rfl | rfl
    · simp only at he
      have : ∃ j, j < 4 ∧ r.lanes[i].getLsbD j = true := by
        by_contra hc
        push Not at hc
        apply he
        apply BitVec.eq_of_getLsbD_eq
        intro j hj
        have := hc j hj
        simpa [hj] using this
      obtain ⟨j, hj, hb⟩ := this
      exact ⟨i, j, by omega, by simpa [hi] using hb, by simp only []; omega, by simp only []; omega⟩
    · simp only at he
      have : ∃ j, j < 4 ∧ r.lanes[i].getLsbD (4 + j) = true := by
        by_contra hc
        push Not at hc
        apply he
        apply BitVec.eq_of_getLsbD_eq
        intro j hj
        have := hc j hj
        simpa [hj] using this
      obtain ⟨j, hj, hb⟩ := this
      exact ⟨i, 4 + j, by omega, by simpa [hi] using hb, by simp only []; omega, by simp only []; omega⟩
  · rintro ⟨i, j, hj, hb, h1, h2⟩
    have hi : i < r.lanes.length := by
      by_contra hc
      have : r.lanes[i]? = none := by simp; omega
      simp [this] at hb
    have hb' : r.lanes[i].getLsbD j = true := by simpa [hi] using hb
    by_cases hj4 : j < 4
    · refine ⟨⟨r.addr.toNat + 8 * i, (0 : BitVec 64).extractLsb' 0 32, r.lanes[i].extractLsb' 0 4⟩, laneWords_mem.mpr ⟨i, hi, by simp [Beat.words]⟩, ?_, ?_⟩
      · show r.addr.toNat + 8 * i = a
        omega
      · intro h0
        have := congrArg (fun v => v.getLsbD j) h0
        simp [hj4, hb'] at this
    · refine ⟨⟨r.addr.toNat + 8 * i + 4, (0 : BitVec 64).extractLsb' 32 32, r.lanes[i].extractLsb' 4 4⟩, laneWords_mem.mpr ⟨i, hi, by simp [Beat.words]⟩, ?_, ?_⟩
      · show r.addr.toNat + 8 * i + 4 = a
        omega
      · intro h0
        have := congrArg (fun v => v.getLsbD (j - 4)) h0
        have e : 4 + (j - 4) = j := by omega
        simp [show j - 4 < 4 by omega, e, hb'] at this

/-! ## The slot runs of a write (R2, R6) -/

/-- A stray of a slot run that has counted passes as written and adds nothing (R6). -/
theorem takeStray_counted (s : State) (w : WordWrite) {run : SlotRun} (h : run.counted = true) :
    takeStray s w run = passWord s w (some run) := by
  simp [takeStray, h]

/-- The first stray of a slot run counts one torn, and its run has then counted (R6). -/
theorem takeStray_first (s : State) (w : WordWrite) {run : SlotRun} (h : run.counted = false) :
    takeStray s w run = passWord s.countTorn w (some { run with counted := true }) := by
  simp [takeStray, h]

/-- The rest of a slot run that has counted, with no frame in its slot and no full word 0: the words pass as written, and
nothing is counted again (R5, R6). -/
theorem takeWords_counted {s : State} {slot : Nat} (hf : ∀ f, s.fr.frame = some f → f.slot ≠ slot) :
    ∀ (ws : List WordWrite) (p : WriteProgress), p.run = some { slot := slot, counted := true } → p.hold = 0 →
      (∀ w ∈ ws, w.enables ≠ 0 → ∃ n, decodeWrite s.tp s.ip w.addr = .capture slot n ∧ ¬ (w.enables = 0xF ∧ n = 0)) →
      (∀ w ∈ ws, QueueClear s.tp.queue w.addr 4) →
      takeWords ws p s = ({ p with taken := p.taken ++ ws, todo := [], stall := none }, s) := by
  intro ws
  induction ws with
  | nil => simp
  | cons w rest ih =>
    intro p hr hh hw hc
    have ht : takeWord s w p.run = passWord s w p.run := by
      by_cases h0 : w.enables = 0
      · exact takeWord_unwritten h0 _
      · obtain ⟨n, hd, hn⟩ := hw w List.mem_cons_self h0
        rw [takeWord_capture h0 hd, hr, takeCapture, if_neg (by simpa [WordWrite.full] using hn)]
        simp only [slotRun, if_pos]
        split
        · exact takeStray_counted s w rfl
        · rename_i f hs
          rw [if_neg (hf f hs)]
          exact takeStray_counted s w rfl
    rw [takeWords_cons _ _ _ _ (by rw [ht]; rfl), ht]
    simp only [passWord, holdDepth_clear (hc w List.mem_cons_self), hh, Nat.max_self]
    have := ih { p with taken := p.taken ++ [w], hold := 0 } hr rfl (fun x hx => hw x (List.mem_cons_of_mem _ hx)) fun x hx => hc x (List.mem_cons_of_mem _ hx)
    cases p
    simp_all

end Sys2Proof.Machine
end

