-- ==== Sys2Proof/Laws/Holds.lean ====
section
/-! SUPPORT. How long a write is held (R164): what `holdDepth` finds is what `Held` says, word by word and for a whole write. -/

namespace Sys2Proof.Machine

/-- A word overlaps a record exactly when a byte its enables name is one of the record's (R163, R164). -/
theorem recordTouches_iff (e : QueueEntry) (x : WordWrite) : recordTouches e x = true ↔ Touches e x := by
  simp [recordTouches, Touches, Config.recordBytes, and_assoc]

/-- The depth a word finds is the place of the last record it overlaps, or 0 when it overlaps none (R164). -/
theorem holdDepth_held (q : List QueueEntry) (x : WordWrite) : Held q [x] 0 (holdDepth q x) := by
  induction q with
  | nil => exact ⟨Nat.zero_le _, by simp, Or.inl rfl⟩
  | cons e rest ih =>
    obtain ⟨-, h1, h2⟩ := ih
    have head : (e :: rest)[0]? = some e := rfl
    cases hd : holdDepth rest x with
    | zero =>
      rw [hd] at h1
      have none_later : ∀ (i : Nat) (y : QueueEntry), rest[i]? = some y → ¬ Touches y x := fun i y hy ht => by
        have := h1 i y hy x List.mem_cons_self ht
        omega
      cases ht : recordTouches e x with
      | true =>
        have hold : holdDepth (e :: rest) x = 1 := by simp [holdDepth, hd, ht]
        rw [hold]
        refine ⟨by omega, fun i y hy z hz hzt => ?_, Or.inr ⟨0, e, head, ⟨x, List.mem_cons_self, (recordTouches_iff e x).mp ht⟩, rfl⟩⟩
        obtain rfl := List.mem_singleton.mp hz
        cases i with
        | zero => omega
        | succ i => exact absurd hzt (none_later i y hy)
      | false =>
        have hold : holdDepth (e :: rest) x = 0 := by simp [holdDepth, hd, ht]
        rw [hold]
        refine ⟨le_refl _, fun i y hy z hz hzt => ?_, Or.inl rfl⟩
        obtain rfl := List.mem_singleton.mp hz
        cases i with
        | zero =>
          obtain rfl := Option.some.inj hy
          rw [(recordTouches_iff _ _).mpr hzt] at ht
          cases ht
        | succ i => exact absurd hzt (none_later i y hy)
    | succ d =>
      have hold : holdDepth (e :: rest) x = d + 2 := by simp [holdDepth, hd]
      rw [hd] at h1 h2
      rw [hold]
      refine ⟨by omega, fun i y hy z hz hzt => ?_, Or.inr ?_⟩
      · cases i with
        | zero => omega
        | succ i =>
          have := h1 i y hy z hz hzt
          omega
      · obtain h | ⟨i, y, hy, hx, hi⟩ := h2
        · omega
        · exact ⟨i + 1, y, hy, hx, by omega⟩

/-- One word more: the write waits as long as before, or for the last record that the word overlaps. -/
theorem held_word (q : List QueueEntry) (x : WordWrite) (before : Nat) : Held q [x] before (max before (holdDepth q x)) := by
  obtain ⟨-, h1, h2⟩ := holdDepth_held q x
  refine ⟨by omega, fun i e he y hy ht => ?_, ?_⟩
  · have := h1 i e he y hy ht
    omega
  · by_cases h : holdDepth q x ≤ before
    · exact Or.inl (by omega)
    · obtain h2 | ⟨i, e, he, hx, hi⟩ := h2
      · omega
      · exact Or.inr ⟨i, e, he, hx, by omega⟩

/-- No word holds a write no longer. -/
theorem held_nil (q : List QueueEntry) (n : Nat) : Held q [] n n :=
  ⟨le_refl _, by simp, Or.inl rfl⟩

/-- Words taken one after another hold a write as long as the words together. -/
theorem Held.append {q : List QueueEntry} {xs ys : List WordWrite} {a b c : Nat} (h1 : Held q xs a b) (h2 : Held q ys b c) :
    Held q (xs ++ ys) a c := by
  obtain ⟨l1, t1, m1⟩ := h1
  obtain ⟨l2, t2, m2⟩ := h2
  refine ⟨le_trans l1 l2, fun i e he x hx ht => ?_, ?_⟩
  · rcases List.mem_append.mp hx with hx | hx
    · exact le_trans (t1 i e he x hx ht) l2
    · exact t2 i e he x hx ht
  · obtain rfl | ⟨i, e, he, ⟨x, hx, ht⟩, hi⟩ := m2
    · obtain rfl | ⟨i, e, he, ⟨x, hx, ht⟩, hi⟩ := m1
      · exact Or.inl rfl
      · exact Or.inr ⟨i, e, he, ⟨x, List.mem_append_left _ hx, ht⟩, hi⟩
    · exact Or.inr ⟨i, e, he, ⟨x, List.mem_append_right _ hx, ht⟩, hi⟩

/-- What a write waits for is determined by its words and the queue. -/
theorem Held.unique {q : List QueueEntry} {xs : List WordWrite} {a b c : Nat} (h1 : Held q xs a b) (h2 : Held q xs a c) : b = c := by
  obtain ⟨l1, t1, m1⟩ := h1
  obtain ⟨l2, t2, m2⟩ := h2
  have hb : b ≤ c := by
    obtain rfl | ⟨i, e, he, ⟨x, hx, ht⟩, rfl⟩ := m1
    · exact l2
    · exact t2 i e he x hx ht
  have hc : c ≤ b := by
    obtain rfl | ⟨i, e, he, ⟨x, hx, ht⟩, rfl⟩ := m2
    · exact l1
    · exact t1 i e he x hx ht
  exact le_antisymm hb hc

/-- Words that change the state by `f`, one after another, pass as they are, and hold the write for the records they overlap. -/
theorem takeWords_held (f : State → WordWrite → State) (Q : WordWrite → Prop) (P : State → Prop)
    (step : ∀ s w run, P s → Q w → P (f s w) ∧ (f s w).tp.queue = s.tp.queue ∧
      ∃ r, takeWord s w run = passWord (f s w) w r) :
    ∀ (ws : List WordWrite) (p : WriteProgress) (s : State), P s → (∀ w ∈ ws, Q w) →
      ∃ r h, Held s.tp.queue ws p.hold h ∧
        takeWords ws p s = ({ p with taken := p.taken ++ ws, todo := [], stall := none, run := r, hold := h }, ws.foldl f s) := by
  intro ws
  induction ws with
  | nil =>
    intro p s _ _
    exact ⟨p.run, p.hold, held_nil _ _, by simp⟩
  | cons w rest ih =>
    intro p s hp hq
    obtain ⟨h1, h2, r, h3⟩ := step s w p.run hp (hq w List.mem_cons_self)
    rw [takeWords_cons _ _ _ _ (by rw [h3]; rfl), h3]
    simp only [passWord]
    obtain ⟨r', h, hh, ht⟩ := ih { p with taken := p.taken ++ [w], run := r, hold := max p.hold (holdDepth s.tp.queue w) } (f s w) h1
      (fun x hx => hq x (List.mem_cons_of_mem _ hx))
    rw [h2] at hh
    refine ⟨r', h, (held_word s.tp.queue w p.hold).append hh, ?_⟩
    rw [ht]
    simp

end Sys2Proof.Machine
end

