-- ==== Sys2Proof/Laws/Layouts.lean ====
section
/-! SUPPORT. The fields of a record word by their bits (R168): a field reads back from where it is placed, and the bits
beside it are 0. -/

namespace Sys2Proof.Machine

/-- Each bit of an unsigned field. -/
theorem getLsbD_place (lo n v i : Nat) :
    (place lo n v).getLsbD i = (decide (i < 32) && decide (lo ≤ i) && decide (i < lo + n) && v.testBit (i - lo)) := by
  simp only [place, BitVec.getLsbD_shiftLeft, BitVec.getLsbD_ofNat, Nat.testBit_mod_two_pow]
  have h3 : (i < lo + n) = (i - lo < n ∨ i < lo) := by
    apply propext
    omega
  by_cases h1 : i < 32 <;> by_cases h2 : lo ≤ i
  · have h4 : i - lo < 32 := by omega
    simp [h1, h2, h3, h4, show ¬ i < lo by omega]
  all_goals simp [h1, h2]

/-- Each bit of a signed field. -/
theorem getLsbD_placeInt (lo n : Nat) (v : Int) (i : Nat) :
    (placeInt lo n v).getLsbD i = (decide (i < 32) && decide (lo ≤ i) && (BitVec.ofInt n v).getLsbD (i - lo)) := by
  simp only [placeInt, BitVec.getLsbD_shiftLeft, BitVec.getLsbD_setWidth]
  by_cases h1 : i < 32 <;> by_cases h2 : lo ≤ i
  · simp [h1, h2, show i - lo < 32 by omega]
  all_goals simp [h1, h2]

/-- An unsigned field reads back from its place. -/
theorem extract_place {lo n : Nat} (v : Nat) (h : lo + n ≤ 32) : (place lo n v).extractLsb' lo n = BitVec.ofNat n v := by
  apply BitVec.eq_of_getLsbD_eq
  intro i hi
  simp only [BitVec.getLsbD_extractLsb', getLsbD_place, BitVec.getLsbD_ofNat, hi]
  simp [hi, show lo + i < 32 by omega]

/-- The bits beside an unsigned field are 0. -/
theorem extract_place_beside {lo n a m : Nat} (v : Nat) (h : a + m ≤ lo ∨ lo + n ≤ a) :
    (place lo n v).extractLsb' a m = 0 := by
  apply BitVec.eq_of_getLsbD_eq
  intro i hi
  simp only [BitVec.getLsbD_extractLsb', getLsbD_place, BitVec.ofNat_eq_ofNat, BitVec.getLsbD_zero, hi, decide_true, Bool.true_and]
  rcases h with h | h
  · simp [show ¬ lo ≤ a + i by omega]
  · simp [show ¬ a + i < lo + n by omega]

/-- A signed field reads back from its place. -/
theorem extract_placeInt {lo n : Nat} (v : Int) (h : lo + n ≤ 32) :
    (placeInt lo n v).extractLsb' lo n = BitVec.ofInt n v := by
  apply BitVec.eq_of_getLsbD_eq
  intro i hi
  simp only [BitVec.getLsbD_extractLsb', getLsbD_placeInt, hi]
  simp [hi, show lo + i < 32 by omega]

/-- The bits beside a signed field are 0. -/
theorem extract_placeInt_beside {lo n a m : Nat} (v : Int) (h : a + m ≤ lo ∨ lo + n ≤ a) :
    (placeInt lo n v).extractLsb' a m = 0 := by
  apply BitVec.eq_of_getLsbD_eq
  intro i hi
  simp only [BitVec.getLsbD_extractLsb', getLsbD_placeInt, BitVec.ofNat_eq_ofNat, BitVec.getLsbD_zero, hi, decide_true, Bool.true_and]
  rcases h with h | h
  · simp [show ¬ lo ≤ a + i by omega]
  · simp [BitVec.getLsbD_of_ge (BitVec.ofInt n v) (a + i - lo) (by omega)]

/-- A flag reads back from its bit. -/
theorem getLsbD_placeFlag (lo : Nat) (b : Bool) (i : Nat) :
    (placeFlag lo b).getLsbD i = (decide (i < 32) && decide (i = lo) && b) := by
  rw [placeFlag, getLsbD_place]
  by_cases h : i = lo
  · subst h
    cases b <;> simp
  · have : ¬ (lo ≤ i ∧ i < lo + 1) := by omega
    by_cases h2 : lo ≤ i <;> simp_all

/-- The bits beside a flag are 0. -/
theorem extract_placeFlag_beside {lo a m : Nat} (b : Bool) (h : a + m ≤ lo ∨ lo + 1 ≤ a) :
    (placeFlag lo b).extractLsb' a m = 0 := extract_place_beside _ h

/-- A field of fields joined is the fields' own, joined. -/
theorem extract_or (x y : Word) (a m : Nat) : (x ||| y).extractLsb' a m = x.extractLsb' a m ||| y.extractLsb' a m := by
  apply BitVec.eq_of_getLsbD_eq
  intro i hi
  simp [hi]
end Sys2Proof.Machine
end

