-- ==== Sys2Proof/Laws/Reports.lean ====
section
/-! SUPPORT. What the operations of the Report Arbiter and of the insertion queue do: entries and raises (R135, R136), marks,
occupancy and ATTN (R139 to R142), the insert-fault record (R143), and the queue's ends (R161, R162). -/

namespace Sys2Proof.Machine

/-! ## Entries (R135, R136) -/

/-- Different kinds have different places. -/
theorem ReportKind.index_inj {j k : ReportKind} (h : j.index = k.index) : j = k := by
  cases j <;> cases k <;> first
    | rfl
    | exact absurd h (by decide)

/-- The entry of a kind after the entry of a kind is replaced. -/
theorem ReportArbiter.setEntry_entry (ra : ReportArbiter) (j k : ReportKind) (e : Option PendingEntry) :
    (ra.setEntry k e).entry j = if j = k then e else ra.entry j := by
  simp only [ReportArbiter.setEntry, ReportArbiter.entry]
  by_cases h : j = k
  · subst h
    simp
  · have h' : k.index.val ≠ j.index.val := fun hv => h (ReportKind.index_inj (Fin.ext hv.symm))
    simp [h, h']

/-- A raise changes the pending set alone (R135). -/
theorem ReportArbiter.raise_frame (ra : ReportArbiter) (k : ReportKind) (d : ReportDetail) :
    ra.raise k d = { ra with pend := (ra.raise k d).pend } := by
  simp only [ReportArbiter.raise]
  split <;> rfl

@[simp] theorem ReportArbiter.raise_mask (ra : ReportArbiter) (k : ReportKind) (d : ReportDetail) :
    (ra.raise k d).mask = ra.mask := by rw [raise_frame]
@[simp] theorem ReportArbiter.raise_writeIndex (ra : ReportArbiter) (k : ReportKind) (d : ReportDetail) :
    (ra.raise k d).writeIndex = ra.writeIndex := by rw [raise_frame]
@[simp] theorem ReportArbiter.raise_occupancy (ra : ReportArbiter) (k : ReportKind) (d : ReportDetail) :
    (ra.raise k d).occupancy = ra.occupancy := by rw [raise_frame]
@[simp] theorem ReportArbiter.raise_marks (ra : ReportArbiter) (k : ReportKind) (d : ReportDetail) :
    (ra.raise k d).marks = ra.marks := by rw [raise_frame]
@[simp] theorem ReportArbiter.raise_tally (ra : ReportArbiter) (k : ReportKind) (d : ReportDetail) :
    (ra.raise k d).tally = ra.tally := by rw [raise_frame]
@[simp] theorem ReportArbiter.raise_latestAddr (ra : ReportArbiter) (k : ReportKind) (d : ReportDetail) :
    (ra.raise k d).latestAddr = ra.latestAddr := by rw [raise_frame]
@[simp] theorem ReportArbiter.raise_latestKind (ra : ReportArbiter) (k : ReportKind) (d : ReportDetail) :
    (ra.raise k d).latestKind = ra.latestKind := by rw [raise_frame]
@[simp] theorem ReportArbiter.raise_suppressed (ra : ReportArbiter) (k : ReportKind) (d : ReportDetail) :
    (ra.raise k d).suppressed = ra.suppressed := by rw [raise_frame]
@[simp] theorem ReportArbiter.raise_attn (ra : ReportArbiter) (k : ReportKind) (d : ReportDetail) :
    (ra.raise k d).attn = ra.attn := by rw [raise_frame]
@[simp] theorem ReportArbiter.raise_enabled (ra : ReportArbiter) (k j : ReportKind) (d : ReportDetail) :
    (ra.raise k d).enabled j = ra.enabled j := by simp [enabled]

/-- The entry of a kind after a raise (R135). -/
theorem ReportArbiter.raise_entry (ra : ReportArbiter) (j k : ReportKind) (d : ReportDetail) :
    (ra.raise k d).entry j =
      if j = k ∧ ra.enabled k = true then some (raisedEntry k d (ra.entry k)) else ra.entry j := by
  simp only [raise]
  cases he : ra.enabled k
  · simp
  · simp only [if_true, setEntry_entry, and_true]

/-- The entries left after some kinds are cleared, the mask and the rest kept (R136). -/
theorem ReportArbiter.clearEntries_entry (ra : ReportArbiter) (ks : List ReportKind) (j : ReportKind) :
    (ra.clearEntries ks).entry j = if j ∈ ks then none else ra.entry j := by
  simp only [clearEntries]
  induction ks generalizing ra with
  | nil => simp
  | cons k ks ih =>
    simp only [List.foldl_cons, ih, setEntry_entry, List.mem_cons]
    by_cases h1 : j = k
    · subst h1
      simp
    · simp [h1]

/-- Clearing entries changes the pending set alone (R136). -/
theorem ReportArbiter.clearEntries_frame (ra : ReportArbiter) (ks : List ReportKind) :
    ra.clearEntries ks = { ra with pend := (ra.clearEntries ks).pend } := by
  simp only [clearEntries]
  induction ks generalizing ra with
  | nil => rfl
  | cons k ks ih =>
    simp only [List.foldl_cons]
    rw [ih]
    rfl

/-! ## Occupied marks (R139 to R142) -/

/-- The occupancy counts the marks, and ATTN follows it (R141). -/
def ReportArbiter.Level (ra : ReportArbiter) : Prop :=
  ra.occupancy = countMarks ra.marks ∧ ra.attn = decide (0 < ra.occupancy)

/-- A raise keeps the level. -/
theorem ReportArbiter.raise_level {ra : ReportArbiter} (h : ra.Level) (k : ReportKind) (d : ReportDetail) :
    (ra.raise k d).Level := by
  rw [raise_frame]
  exact h

/-- Occupying a slot that is not occupied keeps the level (R139). -/
theorem ReportArbiter.occupy_level {ra : ReportArbiter} (h : ra.Level) (n : Fin 64) (hn : ra.marks[n] = false) :
    (ra.occupy n).Level := by
  have hc := countMarks_set ra.marks n.val n.isLt true
  have hn' : ra.marks[n.val] = false := hn
  rw [hn'] at hc
  simp only [Bool.toNat_false, Bool.toNat_true] at hc
  refine ⟨?_, rfl⟩
  show ra.occupancy + 1 = countMarks (ra.marks.set n true)
  rw [h.1]
  exact hc.symm

/-- Releasing a slot keeps the level (R140, R142). -/
theorem ReportArbiter.free_level {ra : ReportArbiter} (h : ra.Level) (n : Fin 64) : (ra.free n).Level := by
  simp only [free]
  split
  · rename_i hn
    have hc := countMarks_set ra.marks n.val n.isLt false
    have hn' : ra.marks[n.val] = true := hn
    rw [hn'] at hc
    simp only [Bool.toNat_false, Bool.toNat_true] at hc
    refine ⟨?_, rfl⟩
    show ra.occupancy - 1 = countMarks (ra.marks.set n false)
    rw [h.1]
    omega
  · exact h

/-- Releasing a slot that is not occupied changes nothing (R140). -/
theorem ReportArbiter.free_clear {ra : ReportArbiter} {n : Fin 64} (h : ra.marks[n] = false) : ra.free n = ra := by
  simp [free, h]

/-- Releasing an occupied slot (R140, R142). -/
theorem ReportArbiter.free_set {ra : ReportArbiter} {n : Fin 64} (h : ra.marks[n] = true) :
    ra.free n = { ra with marks := ra.marks.set n false, occupancy := ra.occupancy - 1, attn := decide (0 < ra.occupancy - 1) } := by
  simp only [free, if_pos h]
  rfl

/-- The marks after a slot is released: that slot's is clear, every other stays (R140, R142). -/
theorem ReportArbiter.free_marks (ra : ReportArbiter) (n m : Fin 64) :
    (ra.free n).marks[m] = (ra.marks[m] && !decide (m = n)) := by
  cases h : ra.marks[n]
  · rw [free_clear h]
    by_cases hm : m = n
    · subst hm
      rw [h]
      rfl
    · simp [hm]
  · rw [free_set h]
    by_cases hm : m = n
    · subst hm
      simp
    · have : n.val ≠ m.val := fun h' => hm (Fin.ext h'.symm)
      simp [hm, this]

/-- Releasing a slot keeps all but the marks, the occupancy and ATTN. -/
theorem ReportArbiter.free_frame (ra : ReportArbiter) (n : Fin 64) :
    ra.free n = { ra with marks := (ra.free n).marks, occupancy := (ra.free n).occupancy, attn := (ra.free n).attn } := by
  simp only [free]
  split <;> rfl

/-! ## Granting (R138) -/

/-- The kind granted is grantable, and every grantable kind stands behind it or is it, in the order of R134. -/
theorem ReportArbiter.nextGrant_some {ra : ReportArbiter} {k : ReportKind} (h : ra.nextGrant = some k) :
    ra.grantable k = true ∧ ∀ j, ra.grantable j = true → k.index ≤ j.index := by
  have h1 := List.find?_some h
  refine ⟨h1, fun j hj => ?_⟩
  simp only [nextGrant, ReportKind.order, List.find?_cons, List.find?_nil] at h
  cases j <;> revert h <;> simp only [hj] <;> repeat' split
  all_goals
    intro h
    cases h
    decide

/-- A grantable kind that stands before every other grantable kind is granted. -/
theorem ReportArbiter.nextGrant_eq {ra : ReportArbiter} {k : ReportKind} (hk : ra.grantable k = true)
    (hf : ∀ j, ra.grantable j = true → k.index ≤ j.index) : ra.nextGrant = some k := by
  cases h : ra.nextGrant with
  | none =>
    have := List.find?_eq_none.mp h k (by cases k <;> decide)
    rw [hk] at this
    exact absurd rfl this
  | some j =>
    have h1 := nextGrant_some h
    have h2 := hf j h1.1
    have h3 := h1.2 k hk
    rw [ReportKind.index_inj (le_antisymm h2 h3)]

/-! ## The insertion queue (R161, R162) -/

@[simp] theorem enqueue_queue (e : QueueEntry) (tp : TransferPath) : (enqueue e tp).queue = tp.queue ++ [e] := rfl
@[simp] theorem enqueue_inFlight (e : QueueEntry) (tp : TransferPath) : (enqueue e tp).inFlight = tp.inFlight := rfl
@[simp] theorem enqueue_upstream (e : QueueEntry) (tp : TransferPath) : (enqueue e tp).upstream = tp.upstream := rfl
@[simp] theorem enqueue_controlBase (e : QueueEntry) (tp : TransferPath) :
    (enqueue e tp).controlBase = tp.controlBase := rfl
@[simp] theorem enqueue_captureRing (e : QueueEntry) (tp : TransferPath) :
    (enqueue e tp).captureRing = tp.captureRing := rfl
@[simp] theorem enqueue_resultArea (e : QueueEntry) (tp : TransferPath) :
    (enqueue e tp).resultArea = tp.resultArea := rfl

/-- An entry is free exactly when the queue holds fewer than 16 records (R161). -/
theorem freeEntries_pos (tp : TransferPath) : 0 < freeEntries tp ↔ tp.queue.length < 16 := by
  simp only [freeEntries, Config.queueEntries]
  omega

/-- The record in flight is the front of the queue. -/
theorem flying_eq_some (tp : TransferPath) (e : QueueEntry) :
    flying tp = some e ↔ tp.inFlight = true ∧ ∃ rest, tp.queue = e :: rest := by
  simp only [flying]
  cases tp.inFlight
  · simp
  · cases tp.queue <;> simp

/-- A grant, when the conditions that do not depend on the entry hold (R138). -/
theorem State.grantOpen_iff (s : State) : s.grantOpen = true ↔
    s.ra.marks[s.ra.writeIndex] = false ∧ s.tp.queue.length ≤ 12 ∧ s.dd.holder = none ∧ s.sc.holder = none := by
  have hq : (Config.grantFreeEntries ≤ freeEntries s.tp) ↔ s.tp.queue.length ≤ 12 := by
    simp only [freeEntries, Config.queueEntries, Config.grantFreeEntries]
    omega
  simp only [grantOpen, Bool.and_eq_true, Bool.not_eq_true', decide_eq_true_eq, hq, Option.isNone_iff_eq_none, and_assoc]

end Sys2Proof.Machine
end

