-- ==== Sys2Proof/Laws/Sweeps.lean ====
section
/-! SUPPORT. What the shared operations of a sweep and of the clocks do, once each: the advance after a close (R91), the entry of
a result record (R108), a close (R90), and the expiries that are due (R53, R58). -/

namespace Sys2Proof.Machine

/-! ## The advance (R91) -/

/-- Short of the last head the advance enters AWAIT_HEAD on the next one (R79, R82, R91). -/
theorem State.advance_next {s : State} (h : s.sc.currentHead ≠ s.sc.lastHead) : s.advance =
    { s with
      sc := { s.sc with state := .awaitHead, currentHead := nextHead s.fr.heads s.sc.currentHead, revolutions := 0 }
      ra := s.ra.raise .headRequest
        { place := some (nextHead s.fr.heads s.sc.currentHead, s.sc.zone), a := 0, b := 0 } } := by
  simp only [State.advance, if_neg h]
  rfl

/-- At the last head of a single pass the sweep ends, with SWEEP DONE, reason COMPLETE (R91). -/
theorem State.advance_done {s : State} (h : s.sc.currentHead = s.sc.lastHead) (hp : s.sc.passes = .onePass) : s.advance =
    { s with
      sc := { s.sc with state := .idle, passesCompleted := min 65535 (s.sc.passesCompleted + 1) }
      ra := s.ra.raise .sweepDone { place := none, a := 1, b := min 65535 (s.sc.passesCompleted + 1) } } := by
  simp only [State.advance, if_pos h, hp]
  rfl

/-- At the last head of a continuous sweep with trigger NOW the next pass starts at once (R80, R81, R91). -/
theorem State.advance_again {s : State} (h : s.sc.currentHead = s.sc.lastHead) (hp : s.sc.passes = .continuous)
    (ht : s.sc.trigger = .now) : s.advance =
    { s with
      sc := { s.sc with
        state := .awaitHead, currentHead := s.sc.firstHead, revolutions := 0
        passesCompleted := min 65535 (s.sc.passesCompleted + 1), passNumber := min 65535 (s.sc.passNumber + 1) }
      ra := s.ra.raise .headRequest { place := some (s.sc.firstHead, s.sc.zone), a := 0, b := 0 } } := by
  simp only [State.advance, if_pos h, hp, State.arm, State.withSc, ht]
  rfl

/-- At the last head of a continuous sweep with another trigger the Sweep Controller is ARMED (R80, R91). -/
theorem State.advance_armed {s : State} (h : s.sc.currentHead = s.sc.lastHead) (hp : s.sc.passes = .continuous)
    (ht : s.sc.trigger ≠ .now) : s.advance =
    { s with sc := { s.sc with
        state := .armed, currentHead := s.sc.firstHead, passesCompleted := min 65535 (s.sc.passesCompleted + 1) } } := by
  simp only [State.advance, if_pos h, hp, State.arm, State.withSc]
  cases hg : s.sc.trigger
  · exact absurd hg ht
  · rfl
  · rfl

/-- The advance touches neither the insertion queue, nor the outcome holder, nor the table, nor the result holder (R91). -/
theorem State.advance_keeps (s : State) : s.advance.tp = s.tp ∧ s.advance.dd = s.dd ∧ s.advance.table = s.table ∧
    s.advance.tsm = s.tsm ∧ s.advance.sc.holder = s.sc.holder ∧ s.advance.sc.zone = s.sc.zone := by
  by_cases h : s.sc.currentHead = s.sc.lastHead
  · cases hp : s.sc.passes
    · rw [State.advance_done h hp]
      exact ⟨rfl, rfl, rfl, rfl, rfl, rfl⟩
    · by_cases ht : s.sc.trigger = .now
      · rw [State.advance_again h hp ht]
        exact ⟨rfl, rfl, rfl, rfl, rfl, rfl⟩
      · rw [State.advance_armed h hp ht]
        exact ⟨rfl, rfl, rfl, rfl, rfl, rfl⟩
  · rw [State.advance_next h]
    exact ⟨rfl, rfl, rfl, rfl, rfl, rfl⟩

/-- The sweep state that the advance leads to is the one the answer for word 6 reports (R91, R94). -/
theorem State.advance_state (s : State) : s.advance.sc.state = advanceState s.sc := by
  simp only [advanceState]
  by_cases h : s.sc.currentHead = s.sc.lastHead
  · rw [if_pos h]
    cases hp : s.sc.passes
    · rw [State.advance_done h hp]
    · cases ht : s.sc.trigger
      · rw [State.advance_again h hp ht]
      · rw [State.advance_armed h hp (by rw [ht]; decide)]
      · rw [State.advance_armed h hp (by rw [ht]; decide)]
  · rw [State.advance_next h, if_neg h]

/-! ## The entry of a result record (R67, R108, R110, R163) -/

/-- What the entry of a result record leaves, but for the table. -/
theorem State.enterResult_frame (s : State) (r : ResultRecord) :
    { s.enterResult r with table := s.table } = { s with
      tp := enqueue { addr := r.addr
                      words := resultWords r (s.table.cell (cellIndex r.head r.zone)).unread
                      kind := .result (cellIndex r.head r.zone) } s.tp
      sc := { s.sc with holder := none }
      ra := (if (s.table.cell (cellIndex r.head r.zone)).unread then
          s.ra.raise .resultOverrun { place := some (r.head, r.zone), a := 0, b := 0 } else s.ra).raise .cellClosed
        { place := some (r.head, r.zone), a := r.outcome.code, b := 0 } } := by
  simp only [State.enterResult]
  split <;> rfl

/-- The table after the entry: the unread flag of the record's cell is set. -/
theorem State.enterResult_table (s : State) (r : ResultRecord) :
    (s.enterResult r).table = s.table.setUnread (cellIndex r.head r.zone) true := by
  simp only [State.enterResult]
  split <;> rfl

/-- The record of an occupied result holder enters when an entry is free and no outcome record waits; otherwise it waits
(R90, R108, R161). -/
theorem State.tryEnterResult_some {s : State} {r : ResultRecord} (h : s.sc.holder = some r) : s.tryEnterResult =
    if s.tp.queue.length < 16 ∧ s.dd.holder = none then s.enterResult r else s := by
  simp only [State.tryEnterResult, h, State.resultCanEnter, Bool.and_eq_true, decide_eq_true_eq, freeEntries_pos,
    Option.isNone_iff_eq_none]

/-! ## Expiries that are due (R53, R58) -/

/-- A timer that is not due is left alone. -/
theorem State.settleTimer_idle {s : State} (h : s.tsm.timerMode = .off ∨ s.tsm.timerCounter < s.tsm.timerPeriod) :
    s.settleTimer = s := by
  have : timerDue s.tsm = false := by
    simp only [timerDue, Bool.and_eq_false_iff, decide_eq_false_iff_not]
    rcases h with h | h
    · exact Or.inl (by simpa using h)
    · exact Or.inr (by omega)
  simp [State.settleTimer, this]

/-- An index timeout that is not due is left alone. -/
theorem State.settleTimeout_idle {s : State}
    (h : s.tsm.timebase ≠ .external ∨ s.tsm.nominal = 0 ∨ s.tsm.interval ≠ 2 * s.tsm.nominal) : s.settleTimeout = s := by
  have : timeoutDue s.tsm = false := by
    simp only [timeoutDue, spindleJudged, Bool.and_eq_false_iff, decide_eq_false_iff_not]
    rcases h with h | h | h
    · exact Or.inl (Or.inl h)
    · exact Or.inl (Or.inr (by simpa using h))
    · exact Or.inr h
  simp [State.settleTimeout, this]

/-- With nothing due nothing is taken. -/
theorem State.settleExpiries_idle {s : State} (h1 : s.tsm.timerMode = .off ∨ s.tsm.timerCounter < s.tsm.timerPeriod)
    (h2 : s.tsm.timebase ≠ .external ∨ s.tsm.nominal = 0 ∨ s.tsm.interval ≠ 2 * s.tsm.nominal) : s.settleExpiries = s := by
  rw [State.settleExpiries, State.settleTimer_idle h1, State.settleTimeout_idle h2]

end Sys2Proof.Machine
end

