-- ==== Sys2Proof/Tests/Slice0.lean ====
section
/-! SUPPORT. The model's own tests: ill-formed commands refused by WellFormed, words written out by hand from chapter 11, the
worked cases of the manual, one step of each command, and for each obligation with hypotheses a state and operands that meet
them. -/

namespace Sys2Proof.Tests

open Sys2Proof.Machine

set_option maxRecDepth 20000

/-! ## Small states -/

/-- The state a command leads to. -/
def after (c : Instr) (s : State) : State :=
  match exec c s with
  | .next t => t
  | .fault _ => s
  | .refused _ => s

/-- The part just released from reset with both straps high. -/
def ready : State :=
  { State.reset with resetLow := false, tp := { TransferPath.reset with controlBase := some 0xFFFFF000 } }

/-- The same with a capture ring of 64 slots at 0x1000 and the result area at 0x0200_0000. -/
def placed : State :=
  ready.withTp { ready.tp with captureRing := some { base := 0x1000, slots := 64 }, resultArea := some 0x02000000 }

/-- A sweep over heads 3 and 0 of four, zone 5 of fourteen, in a state (section 5.11). -/
def sweeping (st : SweepState) : State :=
  (placed.withFr { placed.fr with heads := 4, zoneCount := 14, zones := List.range 14 }).withSc
    { placed.sc with state := st, firstHead := 3, lastHead := 0, currentHead := 3, zone := 5, quota := 4, deadline := 3,
                     trigger := .index, limit := 64, spreadLimit := 8 }

/-- The timebase EXTERNAL with P = 7813 and t = 8 (section 3.6). -/
def external : State := ready.withTsm { ready.tsm with timebase := .external, nominal := 7813, tolerance := 8 }

/-- Full beats from an address, two words to a beat. -/
def burst (a : Nat) (ws : List (Word × Word)) : WriteBurst :=
  { addr := BitVec.ofNat 32 a, beats := ws.map fun x => { data := beatOf x.2 x.1, lanes := 0xFF } }

/-- An outcome record in the queue. -/
def outcomeAt (n : Nat) : QueueEntry := { addr := 0xFFFFF020, words := List.replicate 8 (BitVec.ofNat 32 n), kind := .outcome }

/-- A report record of slot 9 in the queue. -/
def slotNine : QueueEntry := { addr := 0xFFFFF920, words := [6, 0, 0, 0, 0, 0, 0, 0], kind := .report 9 }

/-- A result record of head 2 and zone 3, cell 67, in the queue. -/
def cell67 : QueueEntry := { addr := 0x02000860, words := List.replicate 8 0, kind := .result 67 }

/-- An image of 512 bytes at 0x0010_0000 with its checksum at 0x1FE, in a state, with a map (section 7.6). -/
def imaged (st : ImageState) (m : List PatchEntry) (delta : Nat) : State :=
  placed.withIp { state := st, window := some { base := 0x100000, length := 512, checksum := 0x1FE }, adjustment := delta, map := m }

/-- The entry E3 of section 7.6, in a state, with a baseline. -/
def entry3 (b : Option Nat) (st : EntryState) : PatchEntry :=
  { offset := 0x60, width := 16, encoding := .offset, scale := 12, head := 1, zone := 0, quantity := .centre, baseline := b, state := st }

/-- The part is ready for a directive whenever its Transfer Path and its outcome holder are at rest. -/
theorem ready_of {s : State} (h1 : s.resetLow = false) (h2 : s.tp.controlBase = some 0xFFFFF000) (h3 : s.tp.upstream = [])
    (h4 : s.tp.queue = []) (h5 : s.dd.holder = none) : DirectiveReady 0xFFFFF000 s := by
  refine ⟨⟨⟨h1, h2, true, true, rfl⟩, h3⟩, ?_, h5, ?_⟩
  · simp [QueueClear, h4]
  · simp [h4]

/-! ## WellFormed refuses what the ports cannot carry (section 10.1) -/

theorem test_wf_no_beats : (Instr.captureWrite { addr := 0x1000, beats := [] }).wf = false := by decide
theorem test_wf_seventeen_beats :
    (Instr.mailboxWrite { addr := 0x1000, beats := List.replicate 17 { data := 0, lanes := 0 } }).wf = false := by decide
theorem test_wf_unaligned : (Instr.imageWrite { addr := 0x1004, beats := [{ data := 0, lanes := 0xFF }] }).wf = false := by decide
theorem test_wf_past_the_end :
    (Instr.upstreamWrite (.arrive { addr := 0xFFFFFFF8, beats := List.replicate 2 { data := 0, lanes := 0 } })).wf = false := by
  decide
theorem test_wf_last_beat : (Instr.upstreamWrite (.arrive { addr := 0xFFFFFFF8, beats := [{ data := 0, lanes := 0 }] })).wf = true := by
  decide
theorem test_wf_read_no_beats : (Instr.resultReadNotice (.arrive { addr := 0, lanes := [] })).wf = false := by decide
theorem test_wf_read_unaligned : (Instr.consumptionNotice (.arrive { addr := 2, lanes := [0xFF] })).wf = false := by decide
theorem test_wf_answer_no_data : (Instr.imageRead (.answer 0 .okay [])).wf = false := by decide
/-- An answer ERROR may come without data, and not with more than a burst. -/
theorem test_wf_answer_error : (Instr.imageRead (.answer 0 .error [])).wf = true ∧
    (Instr.imageRead (.answer 0 .error (List.replicate 17 0))).wf = false := by decide
theorem test_wf_answer_seventeen : (Instr.imageRead (.answer 0 .okay (List.replicate 17 0))).wf = false := by decide

/-! ## Words written out from section 11.2 -/

/-- SWEEP, JOG, CONTINUOUS, TIMER, at speed: 0x10, bits 9:8 = 1, 11:10 = 1, 13:12 = 2, bit 16. -/
theorem test_decode_sweep : readDirective #v[0x00012510, 0x00050003, 0x00030004, 0x00080040, 0x00000FA0, 0, 0] =
    some (.sweep { kind := 1, firstHead := 3, lastHead := 0, zone := 5, quota := 4, deadline := 3, passes := 1, trigger := 2,
                   atSpeed := true, limit := 64, spreadLimit := 8, jogThreshold := 4000 }) := by decide
/-- SET ZONES with first index 2 and count 3. -/
theorem test_decode_setZones : readDirective #v[0x00030203, 10, 20, 30, 40, 50, 60] =
    some (.setZones { first := 2, count := 3, tracks := #v[10, 20, 30, 40, 50, 60] }) := by decide
/-- MAP FIELD: width bits 7:0, encoding 15:8, k 23:16, quantity 31:24; head 7:0, zone 15:8. -/
theorem test_decode_mapField : readDirective #v[0x21, 0x60, 0x010C0110, 0x00000D01, 0, 0, 0] =
    some (.mapField { offset := 0x60, width := 16, encoding := 1, scale := 12, head := 1, zone := 13, quantity := 1 }) := by decide
/-- SET GEOMETRY, SET HEAD, SET FOLLOW and SET INDEX. -/
theorem test_decode_settings :
    readDirective #v[0x02, 0x00000E04, 0x00030100, 0, 0, 0, 0] = some (.setGeometry { heads := 4, zones := 14, wpr := 256, gapLimit := 3 }) ∧
    readDirective #v[0xFF04, 0x004003E8, 2048, 0, 0, 0, 0] = some (.setHead { head := 0xFF, floor := 1000, signal := 2048, window := 64 }) ∧
    readDirective #v[0x05, 0x00040000, 9000, 0, 0, 0, 0] = some (.setFollow { settle := 0, inhibit := 4, limit := 9000 }) ∧
    readDirective #v[0x107, 7813, 8, 0, 0, 0, 0] = some (.setIndex { edge := 1, nominal := 7813, tolerance := 8 }) := by decide
/-- Kind code 0 is not in the catalogue (R148). -/
theorem test_decode_kind_zero : readDirective (Vector.replicate 7 0) = none := by decide

/-! ## Worked cases of the manual -/

/-- A frame that is found and valid, at wedge 0 of head 0, with these bursts. -/
def bursts (a b c d : Nat) : FrameRecord :=
  { slot := 0, expects := 5, head := 0, wedge := 0, markFound := true, track := 0, trackValid := true, burstA := a, burstB := b,
    burstC := c, burstD := d, amplitude := 0, reduction := none, shown := .unseen }

/-- What the worked cases give of a reduction: offset, region, grade, signal sum. -/
def figures (floor : Nat) (f : FrameRecord) : Int × Region × Grade × Nat :=
  let r := reduceFrame FrameReducer.reset floor 2048 f
  (r.offset, r.region, r.grade, r.signalSum)

/-- Section 1.4, the two worked cases. -/
theorem test_reduce_worked :
    figures 1000 (bursts 25000 17000 37000 5000) = (51, .normal, .good, 80000) ∧
    figures 1000 (bursts 1000 31000 13000 19000) = (-307, .quadrature, .good, 60000) := by decide
/-- Section 1.4, the limit cases. -/
theorem test_reduce_limits :
    figures 0 (bursts 0 0 0 0) = (0, .normal, .void, 0) ∧
    figures 0 (bursts 0 0 0 5000) = (511, .quadrature, .clamped, 5000) ∧
    figures 0 (bursts 0 0 5000 0) = (0, .quadrature, .good, 5000) ∧
    figures 0 (bursts 1 0 0 0) = (256, .normal, .weak, 1) ∧
    figures 0 (bursts 30000 10000 22500 7500) = (128, .normal, .good, 70000) ∧
    figures 0 (bursts 0 10000 1 1999) = (-512, .quadrature, .good, 12000) ∧
    figures 0 (bursts 1539 1533 2000 0) = (1, .normal, .good, 5072) ∧
    figures 0 (bursts 1533 1539 2000 0) = (-1, .normal, .good, 5072) := by decide
/-- R12, its example list. -/
theorem test_zone_example : zoneOf [0, 12000, 30000] 11999 = 0 ∧ zoneOf [0, 12000, 30000] 12000 = 1 ∧
    zoneOf [0, 12000, 30000] 16777215 = 2 := by decide
/-- Section 2.2, wedge gaps worked out. -/
theorem test_wedge_gaps : wedgeGap 256 101 100 = 0 ∧ wedgeGap 256 103 100 = 2 ∧ wedgeGap 256 105 100 = 4 ∧
    wedgeGap 256 1 254 = 2 ∧ wedgeGap 256 100 100 = 255 ∧ wedgeGap 256 99 100 = 254 := by decide
/-- Section 3.6: 61 ticks are inside the band of P = 7813 and t = 8, 62 outside. -/
theorem test_band : withinTolerance 7752 7813 8 = true ∧ withinTolerance 7874 7813 8 = true ∧ withinTolerance 7751 7813 8 = false ∧
    withinTolerance 7875 7813 8 = false := by decide
/-- Section 0.7: halves go away from zero. -/
theorem test_round : roundDiv 25 2 = 13 ∧ roundDiv (-103) 2 = -52 ∧ roundDiv (-1) 2 = -1 := by decide

/-- Frames accumulated one after another, each an offset with its read amplitude. -/
def gathered (t : Nat) (l : List (Int × Nat)) : Accumulator :=
  l.foldl (fun a x => accumulate a x.1 (frameWeight x.2 t)) Accumulator.clear

/-- Section 6.6 and the limit cases of section 6.2, kind CENTRE: mean, variance and spread. -/
theorem test_centre_figures :
    (let a := gathered 0 [(41, 0), (47, 0), (38, 0), (44, 0)]
     (centreMean a, centreVariance a, centreSpread a) = (43, 11, 3)) ∧
    (let a := gathered 0 [(51, 0), (49, 0), (53, 0), (47, 0), (50, 0)]
     (centreMean a, centreVariance a, centreSpread a) = (50, 4, 2)) ∧
    (let a := gathered 0 [(-512, 0), (511, 0)]
     (centreMean a, centreVariance a, centreSpread a) = (-1, 261632, 511)) ∧
    (let a := gathered 0 [(-2, 0), (-3, 0)]
     (centreMean a, centreVariance a, centreSpread a) = (-3, 0, 0)) := by decide
/-- A JOG sweep with an accumulator and limit 511. -/
def jogging (a : Accumulator) : SweepController := { SweepController.reset with kind := .jog, limit := 511, acc := a }
/-- Section 6.6, the JOG cell of six frames, and the limit cases of section 6.2. -/
theorem test_jog_figures :
    closeFigures (jogging (gathered 4000 [(-20, 3900), (-10, 4100), (0, 4300), (10, 4500), (20, 4100), (30, 4000)])) .quota =
      { outcome := .accepted, value := some 6, spread := 0, extremes := some (-10, 20) } ∧
    (closeFigures (jogging (gathered 0 [(20, 400)])) .quota).outcome = .edge ∧
    (closeFigures (jogging (gathered 0 [(10, 1000), (20, 1)])) .quota).outcome = .edge ∧
    (closeFigures (jogging (gathered 0 [(-11, 1), (-10, 1)])) .quota) =
      { outcome := .edge, value := some (-11), spread := 0, extremes := some (-11, -10) } ∧
    (closeFigures (jogging (gathered 0 [(5, 0), (9, 0)])) .quota).outcome = .noSignal := by decide

/-- An entry of a width, an encoding and a scale. -/
def field (width : Nat) (e : Encoding) (k : Nat) : PatchEntry := { entry3 none .dormant with width := width, encoding := e, scale := k }
/-- R122, its table. -/
theorem test_encode_table :
    encodeFigure (field 8 .twos 8) 50 = (0x0D, false) ∧ encodeFigure (field 8 .offset 8) 50 = (0x8D, false) ∧
    encodeFigure (field 8 .twos 8) (-307) = (0xB3, false) ∧ encodeFigure (field 8 .signMag 8) (-307) = (0xCD, false) ∧
    encodeFigure (field 8 .offset 4) (-2) = (0x80, false) ∧ encodeFigure (field 8 .signMag 4) (-32) = (0x81, false) ∧
    encodeFigure (field 8 .twos 10) 200 = (0x7F, true) ∧ encodeFigure (field 8 .signMag 10) (-128) = (0xFF, true) ∧
    encodeFigure (field 8 .offset 10) (-128) = (0x00, false) ∧ encodeFigure (field 16 .offset 12) 43 = (0x80AC, false) ∧
    encodeFigure (field 16 .twos 14) (-307) = (0xECD0, false) ∧ encodeFigure (field 16 .signMag 14) (-307) = (0x9330, false) := by
  decide
/-- Section 11.6, the word 5 assembled. -/
theorem test_word_5 : annotation5 ⟨-307, .quadrature, .good, 5, false, 60000⟩ .following = 0x000B06CD := by decide
/-- Section 11.1, word 7: the sum in bits 16:0 up to 131070, g in bits 26:17. -/
theorem test_word_7 : annotation7 60000 3 = 0x0006EA60 ∧ annotation7 131070 1023 = 0x07FFFFFE := by decide
/-- Section 7.6: the adjustment of the six entries, and the served checksum. -/
theorem test_adjustment :
    mapAdjustment
      [{ field 8 .twos 8 with offset := 0x40, baseline := some 9, state := .live 0x0D },
       { field 8 .twos 8 with offset := 0x41, baseline := some 2, state := .live 0x02 },
       { field 8 .signMag 10 with offset := 0x43, baseline := some 0 },
       { field 8 .twos 10 with offset := 0x45, baseline := some 0xF0, state := .live 0x80 },
       entry3 (some 0x8010) (.live 0x80AC)] = 0x6F60 ∧
    substituteBeat (imaged .published [entry3 (some 0x8010) (.live 0x80AC)] 0x6F60).ip 0x1001F8 0x5A21000000000000 =
      0xC981000000000000 ∧
    substituteBeat (imaged .published [entry3 (some 0x8010) (.live 0x80AC)] 0x6F60).ip 0x100060 0x1122334455668010 =
      0x11223344556680AC := by decide

/-! ## One step of each command -/

/-- The words of a whole frame of head 0 at wedge 41 on a valid track, with the bursts of the second worked case and F = 0. -/
def frameBurst (slot : Nat) : WriteBurst :=
  burst (0x1000 + 32 * slot) [(0x00008290, 0x80000000), (0x75300000, 0x46502EE0), (0, 0), (0, 0)]
/-- The frame of the second worked case, with no floor: words 5, 6 and 7 as R18 to R20 give them. -/
theorem test_captureWrite_whole : (after (.captureWrite (frameBurst 40)) placed).ports.down.map (fun e => match e with
    | .write a ws => (a, ws.map fun w => w.data)
    | .read _ => (0, [])
    | .insert _ => (0, [])) =
    [(0x1500, [0x00008290, 0x80000000, 0x75300000, 0x46502EE0, 0, 0x000086CD, 0, 0x0000EA60])] := by decide
/-- Section 1.2, step 3: word 2 where word 4 is expected tears the frame of slot 41, and word 3 is its remainder. -/
theorem test_captureWrite_torn :
    let s := placed.withFr { placed.fr with frame := some { bursts 0 0 0 0 with slot := 41, expects := 4 } }
    let t := after (.captureWrite (burst 0x1528 [(1, 2)])) s
    t.fr.torn = 1 ∧ t.fr.frame = none ∧ (t.ra.entry .frameFault).map (fun e => e.repeats) = some 1 := by decide
/-- Section 9.7, step 3: word 5 written in part leaves word 5 unmarked. -/
theorem test_mailboxWrite_partial :
    let s := ready.withDd { ready.dd with marks := #v[true, true, true, true, false, true, false] }
    (after (.mailboxWrite { addr := 0xFFFFF010, beats := [{ data := 7, lanes := 0x3F }] }) s).dd.marks =
      #v[true, true, true, true, true, false, false] := by decide
/-- Section 9.7, step 4: with word 5 unmarked the SET HEAD in the latch is refused INCOMPLETE naming word 5. -/
theorem test_unknownKind_incomplete :
    let s := ready.withDd { ready.dd with latch := #v[0x704, 0, 0, 0, 0, 0, 0], marks := #v[true, true, true, true, true, false, true], count := 42 }
    (after (.unknownKind 1) s).tp.queue.map (fun e => (e.addr, e.words)) = [(0xFFFFF020, [0x304, 43, 0x20, 0, 0, 0, 0, 0])] := by
  decide
/-- A mailbox of zeros is refused UNKNOWN_KIND (R148). -/
theorem test_unknownKind_zero :
    (after (.unknownKind 1) (ready.withDd { ready.dd with marks := Vector.replicate 7 true })).tp.queue.map (fun e => e.words) =
      [[0x400, 1, 0, 0, 0, 0, 0, 0]] := by decide
/-- R157: both straps high. -/
theorem test_resetRelease : after (.resetRelease true true) State.reset = ready := by rfl
/-- R167: a write without a response is ended with ERROR, and the registers return to their reset values. -/
theorem test_resetAssert :
    let t := after .resetAssert (external.withTp { external.tp with outstanding := [.write 0x2000] })
    t.ports.up = [.writeReply 0x2000 .error] ∧ t.tsm = SpindleMonitor.reset ∧ t.resetLow = true := by decide
/-- R159: a slot count below 16 is clamped, operand 2. -/
theorem test_setWindows_clamped :
    let t := after (.setWindows { captureBase := 0x1000, slotCount := 3, resultBase := 0x02000000 }) ready
    t.tp.captureRing = some { base := 0x1000, slots := 16 } ∧ t.tp.resultArea = some 0x02000000 ∧
      t.tp.queue.map (fun e => e.words) = [[0x201, 1, 4, 0, 0, 0, 0, 0]] := by decide
/-- R159: a result area on the capture ring is refused OVERLAP, operand 1. -/
theorem test_setWindows_overlap :
    let t := after (.setWindows { captureBase := 0x4000, slotCount := 16, resultBase := 0x4000 }) ready
    t.tp.captureRing = none ∧ t.tp.queue.map (fun e => e.words) = [[0x701, 1, 1, 0, 0, 0, 0, 0]] := by decide
/-- R22: added zones start one track further on. -/
theorem test_setGeometry :
    let t := after (.setGeometry { heads := 4, zones := 3, wpr := 63, gapLimit := 3 }) ready
    t.fr.zones = [0, 1, 2] ∧ t.fr.heads = 4 ∧ t.fr.wpr = 64 ∧ t.tp.queue.map (fun e => e.words) = [[0x202, 1, 8, 0, 0, 0, 0, 0]] := by
  decide
/-- R23. -/
theorem test_setZones :
    let s := ready.withFr { ready.fr with zoneCount := 3, zones := [0, 1, 2] }
    (after (.setZones { first := 1, count := 2, tracks := #v[12000, 30000, 7, 7, 7, 7] }) s).fr.zones = [0, 12000, 30000] := by decide
/-- Section 9.7, step 5: head 7 with H = 4 is refused BAD_VALUE, operand 1. -/
theorem test_setHead_bad :
    (after (.setHead { head := 7, floor := 1, signal := 2, window := 3 }) (ready.withFr { ready.fr with heads := 4 })).tp.queue.map
      (fun e => e.words) = [[0x504, 1, 1, 0, 0, 0, 0, 0]] := by decide
/-- Section 11.2: S of 70,000 is clamped to 65535. -/
theorem test_setHead_clamped :
    let t := after (.setHead { head := 0xFF, floor := 1000, signal := 70000, window := 64 }) ready
    (t.fm.record 15).signal = 65535 ∧ (t.fm.record 0).floor = 1000 ∧ t.tp.queue.map (fun e => e.words) = [[0x204, 1, 8, 0, 0, 0, 0, 0]] := by
  decide
/-- Section 9.7, step 1: settle 0 and limit 9000 are clamped; operands 1 and 3 are marked. -/
theorem test_setFollow :
    let t := after (.setFollow { settle := 0, inhibit := 4, limit := 9000 }) (ready.withDd { ready.dd with count := 41 })
    t.fm.settle = 1 ∧ t.fm.acquireLimit = 4095 ∧ t.tp.queue.map (fun e => e.words) = [[0x205, 42, 0xA, 0, 0, 0, 0, 0]] := by decide
/-- R47. -/
theorem test_setTimebase :
    let t := after (.setTimebase { source := 1, prescale := 11 }) external
    t.tsm.timebase = .external ∧ t.tsm.prescale = 10 ∧ t.tp.queue.map (fun e => e.words) = [[0x206, 1, 4, 0, 0, 0, 0, 0]] := by decide
/-- Section 3.6, step 1. -/
theorem test_setIndex :
    let t := after (.setIndex { edge := 0, nominal := 7813, tolerance := 8 }) (ready.withTsm { ready.tsm with interval := 9 })
    t.tsm.nominal = 7813 ∧ t.tsm.interval = 0 ∧ t.tsm.spindle = .unknown := by decide
/-- R59: a period of 0 is clamped to 1. -/
theorem test_setTimer :
    let t := after (.setTimer { mode := 2, period := 0 }) ready
    t.tsm.timerMode = .periodic ∧ t.tsm.timerPeriod = 1 ∧ t.tp.queue.map (fun e => e.words) = [[0x208, 1, 4, 0, 0, 0, 0, 0]] := by decide
/-- R137: bit 6 enables HEAD REQUEST alone; bit 12 is outside the eleven. -/
theorem test_setReports :
    (let t := after (.setReports 0x40) ready
     t.ra.enabled .headRequest = true ∧ t.ra.enabled .frameFault = false) ∧
    (after (.setReports 0x1000) ready).tp.queue.map (fun e => e.words) = [[0x509, 1, 1, 0, 0, 0, 0, 0]] := by decide
/-- The SWEEP of section 5.11. -/
def sweepOperands : SweepOperands :=
  { kind := 0, firstHead := 3, lastHead := 0, zone := 5, quota := 4, deadline := 3, passes := 0, trigger := 1, atSpeed := true,
    limit := 64, spreadLimit := 8, jogThreshold := 0 }
/-- Section 5.11, step 0. -/
theorem test_sweep :
    let t := after (.sweep sweepOperands) (sweeping .idle)
    t.sc.state = .armed ∧ t.sc.currentHead = 3 ∧ t.sc.quota = 4 ∧ t.tp.queue.map (fun e => e.words) = [[0x110, 1, 0, 0, 0, 0, 0, 0]] := by
  decide
/-- R77: without windows a SWEEP is refused STATE. -/
theorem test_sweep_state : (after (.sweep sweepOperands) ready).tp.queue.map (fun e => e.words) = [[0x810, 1, 0, 0, 0, 0, 0, 0]] := by
  decide
/-- Section 5.12, step 9. -/
theorem test_halt :
    let s := (sweeping .measuring).withSc { (sweeping .measuring).sc with passesCompleted := 1 }
    let t := after .halt s
    t.sc.state = .idle ∧ t.ra.entry .sweepDone = some { repeats := 1, detail := { place := none, a := 2, b := 1 } } := by decide
/-- Section 4.7, step 11: the cell of head 1 and zone 0 returns to its reset values, and that of head 2 stays. -/
theorem test_clearHead :
    let c : CellRecord := { centre := some 48, jog := some 6, outcome := .accepted, kind := .jog, unread := true, passes := 1 }
    let s := ready.withTable ((ready.table.setCell 32 c).setCell 64 c)
    let t := after (.clearHead 1) s
    t.table.cell 32 = CellRecord.reset ∧ t.table.cell 64 = c := by decide
/-- R41. -/
theorem test_clearHistory :
    let s := ready.withFm (ready.fm.setRecord 2 { ready.fm.record 2 with state := .slipped, history := { History.empty with slipped := true } })
    let t := after (.clearHistory 2) s
    (t.fm.record 2).history = History.empty ∧ (t.fm.record 2).state = .slipped := by decide
/-- Section 7.6: the window. -/
theorem test_setImage :
    (after (.setImage { base := 0x100000, length := 512, checksum := 0x1FE }) placed).ip = (imaged .loading [] 0).ip := by decide
/-- Section 7.6: a field at 0x1FE is refused OVERLAP, a 16-bit field at 0x061 BAD_VALUE, both naming operand 1. -/
theorem test_mapField_refused :
    let f : FieldOperands := { offset := 0x1FE, width := 8, encoding := 0, scale := 8, head := 0, zone := 0, quantity := 0 }
    (after (.mapField f) (imaged .loading [] 0)).tp.queue.map (fun e => e.words) = [[0x721, 1, 1, 0, 0, 0, 0, 0]] ∧
    (after (.mapField { f with offset := 0x61, width := 16 }) (imaged .loading [] 0)).tp.queue.map (fun e => e.words) =
      [[0x521, 1, 1, 0, 0, 0, 0, 0]] := by decide
/-- Section 7.6: the entry E3. -/
theorem test_mapField :
    (after (.mapField { offset := 0x60, width := 16, encoding := 1, scale := 12, head := 1, zone := 0, quantity := 0 })
      (imaged .loading [] 0)).ip.map = [entry3 none .dormant] := by decide
/-- R119. -/
theorem test_clearMap : (after .clearMap (imaged .loading [entry3 none .dormant] 0)).ip.map = [] := by decide
/-- Section 7.6: E3 with baseline 0x8010 and centre 43 freezes 0x80AC; its term is -156. -/
theorem test_publish :
    let s := imaged .loading [entry3 (some 0x8010) .dormant] 0
    let t := after .publish (s.withTable (s.table.setCell 32 { CellRecord.reset with centre := some 43 }))
    t.ip = (imaged .published [entry3 (some 0x8010) (.live 0x80AC)] (65536 - 156)).ip ∧
      t.tp.queue.map (fun e => e.words) = [[0x123, 1, 1, 0, 0, 0, 0, 0]] := by decide
/-- Section 7.6: RELEASE keeps the baseline. -/
theorem test_release :
    (after .release (imaged .published [entry3 (some 0x8010) (.live 0x80AC)] 65380)).ip =
      (imaged .loading [entry3 (some 0x8010) .dormant] 0).ip := by decide
/-- Section 7.6: a full write of 0x8020 to E3 adds 16 to the adjustment. -/
theorem test_imageWrite_full :
    (after (.imageWrite { addr := 0x100060, beats := [{ data := 0x8020, lanes := 0x03 }] })
      (imaged .published [entry3 (some 0x8010) (.live 0x80AC)] 65380)).ip =
      (imaged .published [entry3 (some 0x8020) (.live 0x80AC)] 65396).ip := by decide
/-- Section 7.6: a write of its low byte alone ends the entry, and its term leaves the adjustment. -/
theorem test_imageWrite_partial :
    (after (.imageWrite { addr := 0x100060, beats := [{ data := 0x20, lanes := 0x01 }] })
      (imaged .published [entry3 (some 0x8010) (.live 0x80AC)] 65380)).ip = (imaged .published [entry3 none .dormant] 0).ip := by
  decide
/-- Section 7.6: a read of E3 is answered with its frozen value. -/
theorem test_imageRead :
    let r : ReadBurst := { addr := 0x100060, lanes := [0x03] }
    let s := imaged .published [entry3 (some 0x8010) (.live 0x80AC)] 65380
    (after (.imageRead (.answer 0 .okay [0x8010])) (s.withTp { s.tp with outstanding := [.read r false [] []] })).ports.up =
      [.readReply r .okay [{ data := 0x80AC, lanes := 0x03 }]] := by decide
/-- Section 4.7, steps 5 and 6: words 0 to 6 give no notice, word 7 gives one. -/
theorem test_resultReadNotice_sent :
    (after (.resultReadNotice (.arrive { addr := 0x02000860, lanes := [0xFF, 0xFF, 0xFF, 0x0F] })) placed).tp.outstanding =
      [.read { addr := 0x02000860, lanes := [0xFF, 0xFF, 0xFF, 0x0F] } true [] []] ∧
    (after (.resultReadNotice (.arrive { addr := 0x02000878, lanes := [0x80] })) placed).tp.outstanding =
      [.read { addr := 0x02000878, lanes := [0x80] } true [67] []] := by decide
/-- R68: the unread flag clears at an OKAY answer. -/
theorem test_resultReadNotice_okay :
    let r : ReadBurst := { addr := 0x02000878, lanes := [0xFF] }
    let s := placed.withTable (placed.table.setUnread 67 true)
    ((after (.resultReadNotice (.answer 0 .okay [0])) (s.withTp { s.tp with outstanding := [.read r true [67] []] })).table.cell 67).unread =
      false := by decide
/-- The marks of slots 5 to `last` (section 8.8). -/
def occupied (last : Nat) : Vector Bool 64 := Vector.ofFn fun i => decide (5 ≤ i.val ∧ i.val ≤ last)
/-- The ring of section 8.8 with slots 5 to `last` occupied. -/
def ring (last : Nat) : State :=
  placed.withRa { placed.ra with marks := occupied last, occupancy := last - 4, attn := true, writeIndex := Fin.ofNat 64 (last + 1) }
/-- Section 8.8, step 7: one burst over slots 6 and 7 gives two notices. -/
theorem test_consumptionNotice :
    let r : ReadBurst := { addr := 0xFFFFF8C0, lanes := List.replicate 8 0xFF }
    (after (.consumptionNotice (.arrive r)) (ring 62)).tp.outstanding = [.read r false [] [6, 7]] ∧
    (let s := ring 62
     (after (.consumptionNotice (.answer 0 .okay (List.replicate 8 0)))
       (s.withTp { s.tp with outstanding := [.read r false [] [6, 7]] })).ra.occupancy = 56) := by decide
/-- Section 8.8, steps 1 and 2: CELL CLOSED is granted at an occupancy of 55, HEAD REQUEST is not at 56. -/
theorem test_reportGrant :
    (let t := after .reportGrant ((ring 59).raise .cellClosed { place := some (2, 3), a := 1, b := 0 })
     t.ra.occupancy = 56 ∧ t.ra.writeIndex = 61 ∧ t.tp.queue.map (fun e => (e.addr, e.words)) =
       [(0xFFFFFF80, [0x00010007, 0x00010302, 1, 0, 0, 0, 0, 0])]) ∧
    (after .reportGrant ((ring 60).raise .headRequest { place := some (2, 4), a := 0, b := 0 })).tp.queue = [] := by decide
/-- Section 8.8, step 3: an URGENT report is granted at 56. -/
theorem test_reportGrant_urgent :
    (after .reportGrant (((ring 60).raise .headRequest { place := some (2, 4), a := 0, b := 0 }).raise .spindleFault
      { place := none, a := 2, b := 8100 })).tp.queue.map (fun e => (e.addr, e.words)) =
      [(0xFFFFFFA0, [0x00010103, 0, 2, 8100, 0, 0, 0, 0])] := by decide
/-- The report of slot 9 in flight at the front of the queue, fifteen others behind it (section 10.9). -/
def fullQueue (s : State) : State :=
  s.withTp { s.tp with inFlight := true
                       queue := slotNine :: (List.range 15).map fun i =>
                         { addr := 0xFFFFFA00 + 32 * i, words := List.replicate 8 0, kind := .report (Fin.ofNat 64 (16 + i)) } }
/-- Section 9.7, step 6: a SWEEP taken while the queue is full waits in the holder, and its go word is held. -/
theorem test_sweep_full_queue :
    let t := after (.sweep sweepOperands) (fullQueue (sweeping .idle))
    t.sc.state = .armed ∧ t.dd.holder.isSome = true ∧ t.tp.queue.length = 16 ∧ t.ports.down = [] := by decide
/-- Section 9.7, step 7: an entry frees, and the go word is released. -/
theorem test_outcomeRecordEntry :
    let t := after .outcomeRecordEntry (after .insertWriteOkay (after (.sweep sweepOperands) (fullQueue (sweeping .idle))))
    t.dd.holder = none ∧ t.tp.queue.length = 16 ∧ t.tp.upstream = [] ∧ t.ports.down.length = 1 := by decide
/-- The result record of cell 67 (section 10.9). -/
def held67 : ResultRecord :=
  { head := 2, zone := 3, kind := .centre, outcome := .accepted, n := 4, value := some 12, spread := 3, extremes := none, missed := 1,
    slips := 1, history := { History.empty with following := true }, passNumber := 2, addr := 0x02000860 }
/-- Section 10.9, step 3: the freed entry goes to the result record; with its unread flag set it overruns (section 6.6). -/
theorem test_resultRecordEntry :
    let s := (placed.withTable (placed.table.setUnread 67 true)).withSc { placed.sc with holder := some held67 }
    let t := after .resultRecordEntry s
    t.sc.holder = none ∧ t.tp.queue.map (fun e => (e.addr, e.words)) =
      [(0x02000860, [0x01000302, 4, 0x8000000C, 3, 0x00010001, 4, 0, 0x80000002])] ∧
    (t.ra.entry .resultOverrun).map (fun e => e.detail) = some { place := some (2, 3), a := 0, b := 0 } := by decide
/-- Section 6.6: the record of head 3 and zone 5 of the pass over two heads. -/
theorem test_close_record :
    let s := (sweeping .measuring).withSc { (sweeping .measuring).sc with
      passNumber := 1, acc := { gathered 0 [(41, 0), (47, 0), (38, 0)] with missed := 1, slips := 1 } }
    let t := s.sweepFrame { head := 3, reduction := ⟨44, .normal, .good, 5, false, 9000⟩, amplitude := 0, follow := .following, missed := 0, slip := false }
    t.tp.queue.map (fun e => (e.addr, e.words)) = [(0x02000CA0, [0x01000503, 4, 0x8000002B, 3, 0x00010001, 0, 0, 1])] ∧
      t.sc.state = .awaitHead ∧ t.sc.currentHead = 0 ∧ (t.table.cell 101).centre = some 43 := by decide
/-- R162 and R168: one write of four beats, every byte enable set, the lower-addressed word in the lower half of its beat. -/
theorem test_insertIssue :
    let t := after .insertIssue (placed.withTp { placed.tp with
      queue := [{ addr := 0xFFFFF920, words := [1, 2, 3, 4, 5, 6, 7, 8], kind := .report 9 }] })
    t.tp.inFlight = true ∧ t.ports.down = [.insert { addr := 0xFFFFF920, beats :=
      [{ data := 0x0000000200000001, lanes := 0xFF }, { data := 0x0000000400000003, lanes := 0xFF },
       { data := 0x0000000600000005, lanes := 0xFF }, { data := 0x0000000800000007, lanes := 0xFF }] }] := by decide
/-- Section 10.9, step 3. -/
theorem test_insertWriteOkay : (after .insertWriteOkay (fullQueue placed)).tp.queue.length = 15 := by decide
/-- Section 8.8, step 9: the fault releases the slot, and INSERT FAULT names the slot's address and a report. -/
theorem test_insertWriteError :
    let s := (ring 63).withTp { placed.tp with
      inFlight := true, queue := [{ addr := 0xFFFFFFE0, words := [6, 0, 0, 0, 0, 0, 0, 0], kind := .report 63 }] }
    let t := after .insertWriteError s
    t.ra.occupancy = 58 ∧ t.ra.marks[(63 : Fin 64)] = false ∧ t.ra.tally = 1 ∧
      t.ra.entry .insertFault = some { repeats := 1, detail := { place := none, a := 0xFFFFFFE0, b := 3 } } := by decide
/-- Section 4.7, step 9: the cell's unread flag clears with its dropped record. -/
theorem test_insertWriteError_result :
    let s := (placed.withTable (placed.table.setUnread 67 true)).withTp { placed.tp with inFlight := true, queue := [cell67] }
    ((after .insertWriteError s).table.cell 67).unread = false := by decide
/-- Section 10.9, steps 5 and 6: the read is held, and passes when its record has been answered. -/
theorem test_heldTransactionRelease :
    let r : ReadBurst := { addr := 0x02000860, lanes := List.replicate 4 0xFF }
    let s := placed.withTp { placed.tp with inFlight := true, queue := [cell67], upstream := [.read r] }
    (after .heldTransactionRelease s).ports.down = [] ∧
      (after .heldTransactionRelease (after .insertWriteOkay s)).ports.down = [.read r] := by decide
/-- R164: a write over a queued record is held for it. -/
theorem test_upstreamWrite_held :
    let s := placed.withTp { placed.tp with queue := [cell67] }
    (after (.upstreamWrite (.arrive (burst 0x02000860 [(1, 2)]))) s).ports.down = [] ∧
      (after (.upstreamWrite (.arrive (burst 0x02000880 [(1, 2)]))) s).ports.down.length = 1 := by decide
/-- R166: an ERROR response goes upstream unchanged. -/
theorem test_upstreamWrite_error :
    (after (.upstreamWrite (.answer 0 .error)) (placed.withTp { placed.tp with outstanding := [.write 0x2000] })).ports.up =
      [.writeReply 0x2000 .error] := by decide
/-- R50: the interval stays at its limit. -/
theorem test_tick :
    (after .tick (ready.withTsm { ready.tsm with interval := 16777215 })).tsm.interval = 16777215 ∧
      (after .tick ready).tsm.interval = 1 := by decide
/-- Section 3.6, steps 3 and 5. -/
theorem test_indexEvent :
    (let t := after (.indexEvent .falling) (external.withTsm { external.tsm with lastIndex := true, interval := 8100 })
     t.tsm.spindle = .offSpeed ∧ t.tsm.lastPeriod = some 8100 ∧
       t.ra.entry .spindleFault = some { repeats := 1, detail := { place := none, a := 2, b := 8100 } }) ∧
    (let t := after (.indexEvent .falling) (external.withTsm { external.tsm with lastIndex := true, interval := 7830, spindle := .offSpeed })
     t.tsm.spindle = .atSpeed ∧ t.ra.entry .spindleReady = some { repeats := 1, detail := { place := none, a := 7830, b := 0 } }) := by
  decide
/-- Section 5.11, step 13: the count reaches D in AWAIT_HEAD on the last head. -/
theorem test_indexEvent_deadline :
    let s := (sweeping .awaitHead).withSc { (sweeping .awaitHead).sc with currentHead := 0, passNumber := 1, revolutions := 2 }
    let t := after (.indexEvent .falling) s
    t.sc.state = .idle ∧ (t.table.cell 5).outcome = .noHead ∧
      t.ra.entry .sweepDone = some { repeats := 1, detail := { place := none, a := 1, b := 1 } } := by decide
/-- Section 3.6, step 7. -/
theorem test_indexTimeout :
    let t := after .indexTimeout (external.withTsm { external.tsm with
      lastIndex := true, interval := 15626, spindle := .atSpeed, lastPeriod := some 7810 })
    t.tsm.spindle = .stopped ∧ t.tsm.lastPeriod = some 7810 ∧
      t.ra.entry .spindleFault = some { repeats := 1, detail := { place := none, a := 3, b := 7810 } } := by decide
/-- R58: ONE_SHOT turns OFF at its expiry. -/
theorem test_timerExpiry :
    (after .timerExpiry (ready.withTsm { ready.tsm with timerMode := .oneShot, timerPeriod := 5, timerCounter := 5 })).tsm.timerMode =
      .off := by decide
/-- Section 3.6, the loss of SREF in MEASURING. -/
theorem test_srefLoss :
    let s := (sweeping .measuring).withTsm { external.tsm with spindle := .atSpeed, timerMode := .periodic, timerPeriod := 7813, timerCounter := 3000 }
    let t := after .srefLoss s
    t.tsm.timebase = .fallback ∧ t.tsm.timerCounter = 0 ∧ t.tsm.spindle = .unknown ∧ t.sc.state = .idle ∧
      t.ra.entry .sweepAborted = some { repeats := 1, detail := { place := some (3, 5), a := 1, b := 3 } } := by decide
/-- A timer of period 5 with a count, in a state. -/
def timing (m : TimerMode) (n : Nat) (s : State) : State :=
  s.withTsm { s.tsm with timerMode := m, timerPeriod := 5, timerCounter := n }
/-- R53 and R58: the expiries that are due come before the loss. The timer starts a pass, which is then aborted in AWAIT_HEAD;
an index timeout aborts with reason SPINDLE. -/
theorem test_srefLoss_due :
    (let s := timing .oneShot 5 (((sweeping .armed).withTsm external.tsm).withSc { (sweeping .armed).sc with trigger := .timer })
     let t := after .srefLoss s
     t.tsm.timerMode = .off ∧ t.sc.passNumber = 1 ∧ t.tsm.timebase = .fallback ∧
       t.ra.entry .sweepAborted = some { repeats := 1, detail := { place := some (3, 5), a := 1, b := 2 } }) ∧
    (let s := (sweeping .measuring).withTsm { external.tsm with interval := 15626, spindle := .atSpeed, lastPeriod := some 7810 }
     let t := after .srefLoss s
     t.ra.entry .spindleFault = some { repeats := 1, detail := { place := none, a := 3, b := 7810 } } ∧
       t.ra.entry .sweepAborted = some { repeats := 1, detail := { place := some (3, 5), a := 2, b := 3 } } ∧
       t.tsm.timebase = .fallback) := by decide
/-- R45: with j = 6 the 64th edge ends a tick. -/
theorem test_srefRisingEdge :
    (after .srefRisingEdge (external.withTsm { external.tsm with prescaleCounter := 62, lossCount := 9 })).tsm.prescaleCounter = 63 ∧
    (after .srefRisingEdge (external.withTsm { external.tsm with prescaleCounter := 63 })).tsm.interval = 1 := by decide
/-- Section 2.3, frame 6: one missed wedge, and the run reaches the settle count of 3. -/
theorem test_follow_frame_six :
    let fm := { ready.fm with settle := 3, inhibit := 2, active := some 2, last := { head := some 2, track := some 8000, wedge := some 45 } }
    let r := followFrame 256 3 (fm.setRecord 2 { fm.record 2 with state := .settling, run := 2, acquire := 3 })
      { head := 2, wedge := 47, markFound := true, track := 8000, trackValid := true, grade := .good, offset := 8 }
    (r.fm.record 2).state = .following ∧ (r.fm.record 2).run = 3 ∧ (r.fm.record 2).acquire = 3 ∧ r.gap = 1 ∧ r.missed = 1 := by decide

/-! ## For each statement with hypotheses, a state and operands that meet them

A directive's witness also names the outcome code and the detail at the ends of its operand ranges, so that each clause of
its statement is met. -/

/-- The outcome code and the detail a directive is answered with. -/
def answerTo (s : State) (c : Instr) : Nat × Nat :=
  match (after c s).tp.queue.getLast? with
  | some e => ((e.words.getD 0 0).toNat / 256, (e.words.getD 2 0).toNat)
  | none => (0, 0)

/-- The state with a frame of a slot assembling and a next expected word. -/
def assembling (slot n : Nat) (s : State) : State :=
  s.withFr { s.fr with frame := some { bursts 0 0 0 0 with slot := slot, expects := n } }

/-- The part is free for a transaction when nothing waits at its upstream port. -/
theorem free_of {s : State} (h1 : s.resetLow = false) (h2 : s.tp.controlBase = some 0xFFFFF000) (h3 : s.tp.upstream = []) :
    PortFree 0xFFFFF000 s := ⟨⟨h1, h2, true, true, rfl⟩, h3⟩

theorem witness_StepRunsFrontCommand :
    ({ placed with pending := [.halt, .tick] } : State).pending = .halt :: [.tick] := rfl

theorem witness_SetTimerSetsTheTimerRecord : DirectiveReady 0xFFFFF000 ready ∧ DirectiveReady 0xFFFFF000 (sweeping .armed) ∧
    [⟨3, 5⟩, ⟨0, 0⟩, ⟨1, 1⟩, ⟨2, 16777215⟩, ⟨2, 16777216⟩].map (fun o => answerTo (sweeping .armed) (.setTimer o)) =
      [(5, 1), (2, 4), (1, 0), (1, 0), (2, 4)] :=
  ⟨ready_of rfl rfl rfl rfl rfl, ready_of rfl rfl rfl rfl rfl, by decide⟩

theorem witness_SetTimebaseRestartsTheTimebase : DirectiveReady 0xFFFFF000 ready ∧ DirectiveReady 0xFFFFF000 (sweeping .armed) ∧
    answerTo (sweeping .armed) (.setTimebase ⟨0, 0⟩) = (6, 0) ∧
    [⟨2, 0⟩, ⟨3, 0⟩, ⟨1, 10⟩, ⟨0, 11⟩].map (fun o => answerTo ready (.setTimebase o)) = [(5, 1), (5, 1), (1, 0), (2, 4)] :=
  ⟨ready_of rfl rfl rfl rfl rfl, ready_of rfl rfl rfl rfl rfl, by decide, by decide⟩

theorem witness_SetIndexClearsTheIndexRecord : DirectiveReady 0xFFFFF000 ready ∧ DirectiveReady 0xFFFFF000 (sweeping .armed) ∧
    answerTo (sweeping .armed) (.setIndex ⟨0, 0, 1⟩) = (6, 0) ∧
    [⟨2, 0, 1⟩, ⟨0, 0, 1⟩, ⟨1, 1, 0⟩, ⟨0, 256, 255⟩, ⟨0, 8388607, 256⟩, ⟨1, 8388608, 1⟩].map
      (fun o => answerTo ready (.setIndex o)) = [(5, 1), (1, 0), (2, 12), (1, 0), (2, 8), (2, 4)] :=
  ⟨ready_of rfl rfl rfl rfl rfl, ready_of rfl rfl rfl rfl rfl, by decide, by decide⟩

theorem witness_SetFollowSetsTheSharedSettings : DirectiveReady 0xFFFFF000 ready ∧ DirectiveReady 0xFFFFF000 (sweeping .armed) ∧
    answerTo (sweeping .armed) (.setFollow ⟨1, 1, 16⟩) = (6, 0) ∧
    [⟨1, 255, 16⟩, ⟨255, 1, 4095⟩, ⟨0, 256, 15⟩, ⟨256, 0, 4096⟩].map (fun o => answerTo ready (.setFollow o)) =
      [(1, 0), (1, 0), (2, 14), (2, 14)] :=
  ⟨ready_of rfl rfl rfl rfl rfl, ready_of rfl rfl rfl rfl rfl, by decide, by decide⟩

theorem witness_SetHeadSetsFloorsAndWindow :
    (DirectiveReady 0xFFFFF000 ready ∧ ready.fr.heads ≤ 16) ∧ DirectiveReady 0xFFFFF000 (sweeping .armed) ∧
    answerTo (sweeping .armed) (.setHead ⟨0, 0, 0, 1⟩) = (6, 0) ∧ answerTo (sweeping .idle) (.setHead ⟨4, 0, 0, 1⟩) = (5, 1) ∧
    [⟨16, 0, 0, 1⟩, ⟨254, 0, 0, 1⟩, ⟨15, 4095, 65535, 511⟩, ⟨255, 4096, 65536, 512⟩, ⟨0, 0, 0, 0⟩].map
      (fun o => answerTo ready (.setHead o)) = [(5, 1), (5, 1), (1, 0), (2, 28), (2, 16)] :=
  ⟨⟨ready_of rfl rfl rfl rfl rfl, by decide⟩, ready_of rfl rfl rfl rfl rfl, by decide, by decide, by decide⟩

theorem witness_ClearHistoryEmptiesHistorySets :
    (DirectiveReady 0xFFFFF000 ready ∧ ready.fr.heads ≤ 16) ∧ DirectiveReady 0xFFFFF000 (sweeping .armed) ∧
    [3, 4, 255].map (fun h => answerTo (sweeping .armed) (.clearHistory h)) = [(1, 0), (5, 1), (1, 0)] :=
  ⟨⟨ready_of rfl rfl rfl rfl rfl, by decide⟩, ready_of rfl rfl rfl rfl rfl, by decide⟩

/-- Head 3 is the active head. -/
def active3 : State := ready.withFm { ready.fm with active := some 3, last := { head := some 3, track := some 8, wedge := none } }

theorem witness_ClearHeadEmptiesRecordsAndCells :
    (DirectiveReady 0xFFFFF000 active3 ∧ active3.fr.heads ≤ 16) ∧ DirectiveReady 0xFFFFF000 (sweeping .armed) ∧
    answerTo (sweeping .armed) (.clearHead 0) = (6, 0) ∧ answerTo (sweeping .idle) (.clearHead 4) = (5, 1) ∧
    [15, 16, 255].map (fun h => answerTo active3 (.clearHead h)) = [(1, 0), (5, 1), (1, 0)] ∧
    (after (.clearHead 3) active3).fm.active = none ∧ (after (.clearHead 2) active3).fm.active = some 3 :=
  ⟨⟨ready_of rfl rfl rfl rfl rfl, by decide⟩, ready_of rfl rfl rfl rfl rfl, by decide, by decide, by decide, by decide, by decide⟩

theorem witness_SetReportsReplacesTheMask : DirectiveReady 0xFFFFF000 (sweeping .armed) ∧
    [0, 2, 0xFFE, 1, 0xFFF, 0x1000, 0x80000000].map (fun m => answerTo (sweeping .armed) (.setReports m)) =
      [(1, 0), (1, 0), (1, 0), (5, 1), (5, 1), (5, 1), (5, 1)] :=
  ⟨ready_of rfl rfl rfl rfl rfl, by decide⟩

/-- The last zone starts two tracks below the greatest track. -/
def highZones : State := ready.withFr { ready.fr with zoneCount := 2, zones := [0, 16777213] }

theorem witness_SetGeometryResizesZonesAndUnseesHeads :
    (DirectiveReady 0xFFFFF000 highZones ∧ highZones.fr.zones.length = highZones.fr.zoneCount) ∧
    (DirectiveReady 0xFFFFF000 (assembling 3 2 highZones) ∧
      (assembling 3 2 highZones).fr.zones.length = (assembling 3 2 highZones).fr.zoneCount) ∧
    answerTo (sweeping .armed) (.setGeometry ⟨1, 1, 64, 1⟩) = (6, 0) ∧
    [⟨0, 1, 64, 1⟩, ⟨17, 1, 64, 1⟩, ⟨16, 0, 64, 1⟩, ⟨1, 33, 64, 1⟩, ⟨1, 5, 64, 1⟩, ⟨1, 4, 64, 1⟩, ⟨16, 1, 1023, 63⟩, ⟨16, 2, 63, 0⟩,
      ⟨16, 2, 1024, 64⟩].map (fun o => answerTo highZones (.setGeometry o)) =
      [(5, 1), (5, 1), (5, 2), (5, 2), (5, 2), (1, 0), (1, 0), (2, 24), (2, 24)] ∧
    answerTo ready (.setGeometry ⟨16, 32, 64, 1⟩) = (1, 0) :=
  ⟨⟨ready_of rfl rfl rfl rfl rfl, rfl⟩, ⟨ready_of rfl rfl rfl rfl rfl, rfl⟩, by decide, by decide, by decide⟩

/-- Three zones, from tracks 0, 10 and 20. -/
def threeZones : State := ready.withFr { ready.fr with zoneCount := 3, zones := [0, 10, 20] }

/-- Eight zones, one track each. -/
def eightZones : State := ready.withFr { ready.fr with zoneCount := 8, zones := List.range 8 }

theorem witness_SetZonesReplacesFirstTracks :
    (DirectiveReady 0xFFFFF000 eightZones ∧ eightZones.fr.zones.length = eightZones.fr.zoneCount) ∧
    (DirectiveReady 0xFFFFF000 threeZones ∧ threeZones.fr.zones.length = threeZones.fr.zoneCount) ∧
    [⟨1, 1, #v[25, 0, 0, 0, 0, 0]⟩, ⟨1, 1, #v[20, 0, 0, 0, 0, 0]⟩, ⟨1, 1, #v[19, 0, 0, 0, 0, 0]⟩, ⟨1, 1, #v[0, 0, 0, 0, 0, 0]⟩,
      ⟨2, 1, #v[10, 0, 0, 0, 0, 0]⟩].map (fun o => answerTo threeZones (.setZones o)) = [(5, 1), (5, 1), (1, 0), (5, 1), (5, 1)] ∧
    eightZones.sc.state = .idle ∧ ascending eightZones.fr.zones = true ∧
    answerTo (sweeping .armed) (.setZones ⟨0, 1, #v[0, 0, 0, 0, 0, 0]⟩) = (6, 0) ∧
    [⟨0, 6, #v[0, 1, 2, 3, 4, 5]⟩, ⟨2, 6, #v[2, 3, 4, 5, 6, 16777215]⟩, ⟨7, 1, #v[16777215, 0, 0, 0, 0, 0]⟩].map
      (fun o => answerTo eightZones (.setZones o)) = [(1, 0), (1, 0), (1, 0)] ∧
    [⟨3, 6, #v[3, 4, 5, 6, 7, 8]⟩, ⟨0, 1, #v[1, 0, 0, 0, 0, 0]⟩, ⟨8, 0, #v[0, 0, 0, 0, 0, 0]⟩, ⟨1, 7, #v[1, 2, 3, 4, 5, 6]⟩,
      ⟨2, 7, #v[1, 2, 3, 4, 5, 6]⟩, ⟨7, 1, #v[16777216, 0, 0, 0, 0, 0]⟩, ⟨2, 2, #v[2, 2, 0, 0, 0, 0]⟩].map
      (fun o => answerTo eightZones (.setZones o)) = [(5, 1), (5, 1), (5, 2), (5, 2), (5, 1), (5, 3), (5, 1)] :=
  ⟨⟨ready_of rfl rfl rfl rfl rfl, rfl⟩, ⟨ready_of rfl rfl rfl rfl rfl, rfl⟩, by decide, rfl, by decide, by decide, by decide, by decide⟩

theorem witness_SetWindowsPlacesTheWindows :
    (DirectiveReady 0xFFFFF000 ready ∧ (ready.ip.state = .unset → ready.ip.window = none)) ∧
    (DirectiveReady 0xFFFFF000 (imaged .loading [] 0) ∧
      ((imaged .loading [] 0).ip.state = .unset → (imaged .loading [] 0).ip.window = none)) ∧
    answerTo (sweeping .armed) (.setWindows ⟨0, 16, 0x4000⟩) = (6, 0) ∧
    [⟨0, 16, 0x4000⟩, ⟨0x4000, 65536, 0x204000⟩, ⟨0, 15, 0x4000⟩, ⟨0, 65537, 0x200000⟩, ⟨16, 16, 0x4000⟩, ⟨0xFFFFFE20, 16, 0⟩,
      ⟨0, 16, 0x2000⟩, ⟨0x7FE0, 16, 0x4000⟩, ⟨0x3E20, 16, 0x4000⟩, ⟨0xFFFFEE20, 16, 0⟩, ⟨0xFFFFEE00, 16, 0⟩,
      ⟨0, 16, 0xFFFFC000⟩].map (fun o => answerTo ready (.setWindows o)) =
      [(1, 0), (1, 0), (2, 4), (2, 4), (5, 1), (5, 1), (5, 3), (7, 1), (7, 1), (7, 1), (1, 0), (7, 3)] ∧
    [⟨0x1001E0, 16, 0⟩, ⟨0x100200, 16, 0⟩, ⟨0, 16, 0x100000⟩].map (fun o => answerTo (imaged .loading [] 0) (.setWindows o)) =
      [(7, 1), (1, 0), (7, 3)] :=
  ⟨⟨ready_of rfl rfl rfl rfl rfl, fun _ => rfl⟩, ⟨ready_of rfl rfl rfl rfl rfl, fun h => by cases h⟩, by decide, by decide, by decide⟩

theorem witness_SweepStartsASweep :
    (DirectiveReady 0xFFFFF000 (sweeping .idle) ∧ (sweeping .idle).fr.heads ≤ 16 ∧ (sweeping .idle).fr.zoneCount ≤ 32) ∧
    answerTo (sweeping .armed) (.sweep sweepOperands) = (6, 0) ∧ answerTo ready (.sweep sweepOperands) = (8, 0) ∧
    [{ sweepOperands with kind := 2 }, { sweepOperands with firstHead := 4 }, { sweepOperands with lastHead := 4 },
      { sweepOperands with zone := 14 }, { sweepOperands with passes := 2 }, { sweepOperands with trigger := 3 }].map
      (fun o => answerTo (sweeping .idle) (.sweep o)) = [(5, 1), (5, 2), (5, 3), (5, 4), (5, 7), (5, 8)] ∧
    [{ sweepOperands with quota := 4096, deadline := 255, limit := 511, spreadLimit := 511, zone := 13, trigger := 0 },
      { sweepOperands with quota := 0, deadline := 0, limit := 512, spreadLimit := 512, trigger := 2, kind := 1, passes := 1 },
      { sweepOperands with quota := 4097, deadline := 256 }].map (fun o => answerTo (sweeping .idle) (.sweep o)) =
      [(1, 0), (2, 0xC60), (2, 0x60)] :=
  ⟨⟨ready_of rfl rfl rfl rfl rfl, by decide, by decide⟩, by decide, by decide, by decide, by decide⟩

theorem witness_HaltEndsTheSweep : DirectiveReady 0xFFFFF000 ready ∧ DirectiveReady 0xFFFFF000 (sweeping .awaitHead) ∧
    answerTo ready .halt = (1, 0) ∧ answerTo (sweeping .awaitHead) .halt = (1, 0) :=
  ⟨ready_of rfl rfl rfl rfl rfl, ready_of rfl rfl rfl rfl rfl, by decide, by decide⟩

theorem witness_SetImageOpensTheWindow : DirectiveReady 0xFFFFF000 placed ∧ DirectiveReady 0xFFFFF000 (imaged .published [] 0) ∧
    answerTo (imaged .published [] 0) (.setImage ⟨0, 64, 0⟩) = (8, 0) ∧
    [⟨0, 64, 62⟩, ⟨0x1800, 65536, 65534⟩, ⟨32, 64, 0⟩, ⟨0xFFFFFFC0, 128, 0⟩, ⟨0, 0, 0⟩, ⟨0, 96, 0⟩, ⟨0, 65600, 0⟩, ⟨0, 64, 64⟩, ⟨0, 64, 63⟩,
      ⟨0xFFFFEFC0, 128, 0⟩, ⟨0x17C0, 64, 0⟩, ⟨0xFC0, 128, 0⟩, ⟨0x02003FC0, 64, 0⟩].map (fun o => answerTo placed (.setImage o)) =
      [(1, 0), (1, 0), (5, 1), (5, 1), (5, 2), (5, 2), (5, 2), (5, 2), (5, 3), (7, 1), (7, 1), (7, 1), (7, 1)] :=
  ⟨ready_of rfl rfl rfl rfl rfl, ready_of rfl rfl rfl rfl rfl, by decide, by decide⟩

/-- A field over 8 bits at an offset. -/
def fieldAt (offset : Word) (width : BitVec 8) : FieldOperands :=
  { offset := offset, width := width, encoding := 0, scale := 4, head := 15, zone := 0, quantity := 0 }

/-- 128 fields of 8 bits, one a byte. -/
def fullMap : List PatchEntry := (List.range 128).map fun i => { entry3 none .dormant with offset := i, width := 8 }

theorem witness_MapFieldPlacesAnEntry :
    (DirectiveReady 0xFFFFF000 ready ∧ ready.fr.heads ≤ 16 ∧ ready.fr.zoneCount ≤ 32 ∧ ready.ip.state ≠ .loading ∧
      answerTo ready (.mapField (fieldAt 0 8)) = (8, 0)) ∧
    (DirectiveReady 0xFFFFF000 (imaged .loading [entry3 none .dormant] 0) ∧
      (imaged .loading [entry3 none .dormant] 0).fr.heads ≤ 16 ∧ (imaged .loading [entry3 none .dormant] 0).fr.zoneCount ≤ 32 ∧
      (imaged .loading [entry3 none .dormant] 0).ip.state = .loading ∧
      (imaged .loading [entry3 none .dormant] 0).ip.window = some { base := 0x100000, length := 512, checksum := 0x1FE }) ∧
    answerTo (imaged .published [] 0) (.mapField (fieldAt 0 8)) = (8, 0) ∧
    [fieldAt 511 8, fieldAt 512 8, fieldAt 3 16, fieldAt 0 4, { fieldAt 0 8 with encoding := 3 }, { fieldAt 0 8 with scale := 3 },
      { fieldAt 0 8 with scale := 15 }, { fieldAt 0 8 with head := 16 }, { fieldAt 0 8 with zone := 1 },
      { fieldAt 0 8 with quantity := 2 }, fieldAt 0x1FF 8, fieldAt 0x61 8, fieldAt 0x60 16].map
      (fun o => answerTo (imaged .loading [entry3 none .dormant] 0) (.mapField o)) =
      [(7, 1), (5, 1), (5, 1), (5, 2), (5, 3), (5, 4), (5, 4), (5, 5), (5, 6), (5, 7), (7, 1), (7, 1), (7, 1)] ∧
    [fieldAt 0x5F 8, fieldAt 0x62 8, { fieldAt 0x1FC 16 with scale := 14, encoding := 2, quantity := 1 }].map
      (fun o => answerTo (imaged .loading [entry3 none .dormant] 0) (.mapField o)) = [(1, 0), (1, 0), (1, 0)] ∧
    answerTo (imaged .loading fullMap 0) (.mapField (fieldAt 128 8)) = (9, 0) :=
  ⟨⟨ready_of rfl rfl rfl rfl rfl, by decide, by decide, by decide, by decide⟩,
    ⟨ready_of rfl rfl rfl rfl rfl, by decide, by decide, rfl, rfl⟩, by decide, by decide, by decide, by decide⟩

theorem witness_ClearMapEmptiesTheMap : DirectiveReady 0xFFFFF000 ready ∧
    DirectiveReady 0xFFFFF000 (imaged .loading [entry3 none .dormant] 0) ∧ (ready.ip.state ≠ .published ∧ ready.ip.map = []) ∧
    [ready, imaged .loading [entry3 none .dormant] 0, imaged .published [] 0].map (fun s => answerTo s .clearMap) =
      [(1, 0), (1, 0), (8, 0)] :=
  ⟨ready_of rfl rfl rfl rfl rfl, ready_of rfl rfl rfl rfl rfl, by decide, by decide⟩

theorem witness_PublishFreezesTheMap : DirectiveReady 0xFFFFF000 ready ∧ ready.ip.state ≠ .loading ∧
    DirectiveReady 0xFFFFF000 (imaged .loading [entry3 (some 5) .dormant] 0) ∧
    (imaged .loading [entry3 (some 5) .dormant] 0).ip.state = .loading :=
  ⟨ready_of rfl rfl rfl rfl rfl, by decide, ready_of rfl rfl rfl rfl rfl, rfl⟩

theorem witness_ReleaseReturnsToLoading : DirectiveReady 0xFFFFF000 (imaged .published [] 0) ∧ DirectiveReady 0xFFFFF000 ready ∧
    answerTo (imaged .published [] 0) .release = (1, 0) ∧ answerTo ready .release = (8, 0) :=
  ⟨ready_of rfl rfl rfl rfl rfl, ready_of rfl rfl rfl rfl rfl, by decide, by decide⟩

/-- All seven words marked, with a kind code. -/
def marked (kind : Word) : State :=
  ready.withDd { ready.dd with latch := ready.dd.latch.set 0 kind, marks := Vector.replicate 7 true }

/-- A complete latch that holds SET TIMER, mode 2 and period 5, with a bit set that no operand has (section 11.2). -/
def latchedTimer : State :=
  ready.withDd { ready.dd with latch := #v[0x80000208, 5, 7, 0, 0, 0, 0], marks := Vector.replicate 7 true }

theorem witness_GoWordRefusesIncompleteAndUnknown :
    (DirectiveReady 0xFFFFF000 latchedTimer ∧ (Instr.setTimer ⟨2, 5⟩).directive = some (.setTimer ⟨2, 5⟩) ∧
      latchedTimer.dd.marks = Vector.replicate 7 true ∧ readDirective latchedTimer.dd.latch = some (.setTimer ⟨2, 5⟩) ∧
      (after (.unknownKind 1) latchedTimer).tsm.timerPeriod = 5) ∧
    DirectiveReady 0xFFFFF000 ready ∧ DirectiveReady 0xFFFFF000 (marked 0x0A) ∧
    [ready, marked 0, marked 0x0A, marked 0x0F, marked 0x25, marked 0xFF].map (fun s => answerTo s (.unknownKind 1)) =
      [(3, 127), (4, 0), (4, 0), (4, 0), (4, 0), (4, 0)] ∧
    ((marked 0x0A).dd.latch[0].extractLsb' 0 8 ∉ [0x01#8, 0x02#8, 0x03#8, 0x04#8, 0x05#8, 0x06#8, 0x07#8, 0x08#8, 0x09#8, 0x10#8,
      0x11#8, 0x12#8, 0x13#8, 0x20#8, 0x21#8, 0x22#8, 0x23#8, 0x24#8]) :=
  ⟨⟨ready_of rfl rfl rfl rfl rfl, rfl, rfl, by decide, by decide⟩, ready_of rfl rfl rfl rfl rfl, ready_of rfl rfl rfl rfl rfl, by decide, by decide⟩

theorem witness_EveryDirectiveIsAnsweredOnce : DirectiveReady 0xFFFFF000 placed ∧
    (Instr.sweep sweepOperands).directive = some (.sweep sweepOperands) ∧
    (PortFree 0xFFFFF000 (fullQueue placed) ∧ QueueClear (fullQueue placed).tp.queue 0xFFFFF000 32 ∧
      (fullQueue placed).dd.holder = none ∧ 16 ≤ (fullQueue placed).tp.queue.length) :=
  ⟨ready_of rfl rfl rfl rfl rfl, rfl, ⟨⟨rfl, rfl, true, true, rfl⟩, rfl⟩, by simp only [QueueClear]; decide, rfl, by decide⟩

/-- The insertion queue full: a go word alone is taken, its record waits, and its write is stalled. -/
theorem witness_GoWordRefusesIncompleteAndUnknown_full :
    (∀ s ∈ [fullQueue ready, fullQueue (marked 0x0A), fullQueue latchedTimer], PortFree 0xFFFFF000 s ∧
      QueueClear s.tp.queue 0xFFFFF000 32 ∧ s.dd.holder = none ∧ 16 ≤ s.tp.queue.length) ∧
    [fullQueue ready, fullQueue (marked 0x0A), fullQueue latchedTimer].map (fun s =>
        ((after (.unknownKind 1) s).dd.holder.map fun r => (r.kind, r.code), (after (.unknownKind 1) s).tp.upstream.length)) =
      [(some (0, .incomplete), 1), (some (0x0A, .unknownKind), 1), (some (0x08, .taken), 1)] := by
  refine ⟨?_, by decide⟩
  have clear : QueueClear (fullQueue ready).tp.queue 0xFFFFF000 32 := by
    simp only [QueueClear]
    decide
  intro s hs
  simp only [List.mem_cons, List.not_mem_nil, or_false] at hs
  rcases hs with rfl | rfl | rfl <;> exact ⟨free_of rfl rfl rfl, clear, rfl, by decide⟩

theorem witness_DirectiveBurstReadsBackItsOperands : Running 0xFFFFF000 placed ∧
    (Instr.mapField (fieldAt 0xFFFFFFFF 0xFF)).directive = some (.mapField (fieldAt 0xFFFFFFFF 0xFF)) :=
  ⟨⟨rfl, rfl, true, true, rfl⟩, rfl⟩

theorem witness_ResetReleasePlacesTheControlRegion :
    State.reset.resetLow = true ∧ Instr.halt ≠ .resetAssert ∧ ∀ x y, Instr.halt ≠ .resetRelease x y :=
  ⟨rfl, by decide, by decide⟩

/-- EXTERNAL with a loss count. -/
def losing (n : Nat) : State := external.withTsm { external.tsm with lossCount := n }

/-- INTERNAL with a prescale counter. -/
def counted (n : Nat) : State := ready.withTsm { ready.tsm with prescaleCounter := n }

/-- EXTERNAL with an index interval. -/
def waited (n : Nat) (sp : SpindleState) : State :=
  external.withTsm { external.tsm with interval := n, lastIndex := true, spindle := sp }

/-- A sweep ARMED on TIMER with the timer at its period, and one that waits for its head with the index interval at 2 × P. -/
def expiries : List State :=
  [timing .periodic 5 ((sweeping .armed).withSc { (sweeping .armed).sc with trigger := .timer }),
   (sweeping .awaitHead).withTsm (waited 15626 .atSpeed).tsm]

/-- The timeout taken: the interval stands at 2 × P until the next tick. -/
def timedOut : State := (waited 15626 .stopped).withTsm { (waited 15626 .stopped).tsm with lastIndex := false }

theorem witness_IdleStepIsOneOscillatorPeriod :
    (∀ s ∈ [losing 22, losing 23, ready, counted 62, counted 63, timedOut], s.pending = [] ∧ s.resetLow = false ∧
      (s.tsm.timerMode = .off ∨ s.tsm.timerCounter < s.tsm.timerPeriod) ∧
      (s.tsm.timebase ≠ .external ∨ s.tsm.nominal = 0 ∨ s.tsm.interval ≠ 2 * s.tsm.nominal ∨
        (s.tsm.spindle = .stopped ∧ s.tsm.lastIndex = false))) ∧
    ((losing 22).tsm.timebase = .external ∧ (losing 22).tsm.lossCount + 1 < 24) ∧
    ((losing 23).tsm.timebase = .external ∧ 24 ≤ (losing 23).tsm.lossCount + 1) ∧
    ((counted 62).tsm.timebase ≠ .external ∧ (counted 62).tsm.prescaleCounter + 1 < 2 ^ (counted 62).tsm.prescale) ∧
    ((counted 63).tsm.timebase ≠ .external ∧ (counted 63).tsm.lossCount = 0 ∧
      2 ^ (counted 63).tsm.prescale ≤ (counted 63).tsm.prescaleCounter + 1) ∧
    (∀ s ∈ expiries, s.pending = [] ∧ s.resetLow = false) ∧
    expiries.map (fun s => (after .timerExpiry s).sc.state) = [.awaitHead, .awaitHead] ∧
    expiries.map (fun s => (after .indexTimeout s).sc.state) = [.armed, .idle] := by decide

theorem witness_TickCountsIntervalAndTimer :
    (∀ s ∈ [ready, external, timedOut, ready.withTsm { ready.tsm with timerMode := .periodic, timerPeriod := 5, timerCounter := 4 }],
      s.resetLow = false ∧ (s.tsm.timerMode = .off ∨ s.tsm.timerCounter < s.tsm.timerPeriod) ∧
      (s.tsm.timebase ≠ .external ∨ s.tsm.nominal = 0 ∨ s.tsm.interval ≠ 2 * s.tsm.nominal ∨
        (s.tsm.spindle = .stopped ∧ s.tsm.lastIndex = false))) ∧
    (∀ s ∈ expiries, s.resetLow = false) ∧
    expiries.map (fun s => ((after .tick s).sc.state, (after .tick s).tsm.timerCounter, (after .tick s).tsm.spindle)) =
      [(.awaitHead, 1, .unknown), (.idle, 0, .stopped)] := by decide

theorem witness_SrefEdgeAdvancesTheTick :
    let at62 := external.withTsm { external.tsm with prescaleCounter := 62 }
    let at63 := external.withTsm { external.tsm with prescaleCounter := 63 }
    (ready.resetLow = false ∧ ready.tsm.timebase ≠ .external) ∧
    (at62.resetLow = false ∧ at62.tsm.timebase = .external ∧ at62.tsm.prescaleCounter + 1 < 2 ^ at62.tsm.prescale) ∧
    (at63.resetLow = false ∧ at63.tsm.timebase = .external ∧ 2 ^ at63.tsm.prescale ≤ at63.tsm.prescaleCounter + 1) := by decide

theorem witness_SrefLossFallsBackAndAborts : (ready.resetLow = false ∧ ready.tsm.timebase ≠ .external) ∧
    (∀ s ∈ [external, timing .periodic 4 (waited 15625 .atSpeed),
        (waited 15626 .stopped).withTsm { (waited 15626 .stopped).tsm with lastIndex := false }],
      s.resetLow = false ∧ s.tsm.timebase = .external ∧ (s.tsm.timerMode = .off ∨ s.tsm.timerCounter < s.tsm.timerPeriod) ∧
      (s.tsm.nominal = 0 ∨ s.tsm.interval ≠ 2 * s.tsm.nominal ∨ (s.tsm.spindle = .stopped ∧ s.tsm.lastIndex = false))) ∧
    (timing .oneShot 5 (waited 15626 .atSpeed)).tsm.timebase = .external := by decide

theorem witness_IndexTimeoutStopsTheSpindle :
    ((waited 15625 .atSpeed).resetLow = false ∧ (waited 15625 .atSpeed).tsm.interval ≠ 2 * (waited 15625 .atSpeed).tsm.nominal) ∧
    ∀ sp ∈ [SpindleState.atSpeed, .stopped], (waited 15626 sp).resetLow = false ∧ (waited 15626 sp).tsm.timebase = .external ∧
      (waited 15626 sp).tsm.nominal ≠ 0 ∧ (waited 15626 sp).tsm.interval = 2 * (waited 15626 sp).tsm.nominal := by decide

theorem witness_TimerExpiryStartsAPass :
    ((timing .oneShot 4 placed).resetLow = false ∧ (timing .oneShot 4 placed).tsm.timerCounter < (timing .oneShot 4 placed).tsm.timerPeriod) ∧
    (let s := timing .periodic 5 ((sweeping .armed).withSc { (sweeping .armed).sc with trigger := .timer })
     s.resetLow = false ∧ s.tsm.timerMode ≠ .off ∧ s.tsm.timerPeriod ≤ s.tsm.timerCounter ∧ s.sc.state = .armed ∧
       s.sc.trigger = .timer) := by decide

theorem witness_IndexEventJudgesTheSpindle :
    (∀ s ∈ [(sweeping .armed).withTsm external.tsm, (sweeping .measuring).withTsm (waited 15626 .atSpeed).tsm],
      s.resetLow = false ∧ Edge.rising ≠ s.tsm.edge) ∧
    (∀ s ∈ [ready, external, waited 7752 .unknown, waited 7751 .atSpeed, waited 15625 .unknown], s.resetLow = false ∧ s.sc.state = .idle ∧
      (s.tsm.timebase ≠ .external ∨ s.tsm.nominal = 0 ∨ s.tsm.interval ≠ 2 * s.tsm.nominal)) ∧
    (Edge.falling = ready.tsm.edge ∧ ready.tsm.timebase ≠ .external) ∧
    (external.tsm.timebase = .external ∧ external.tsm.nominal ≠ 0 ∧ external.tsm.lastIndex = false) ∧
    (waited 7752 .unknown).tsm.lastIndex = true := by decide

/-- A sweep that waits with a revolution count, in EXTERNAL with an index interval. -/
def revolved (st : SweepState) (n interval : Nat) (sp : SpindleState) : State :=
  ((sweeping st).withSc { (sweeping st).sc with revolutions := n, passNumber := 1 }).withTsm (waited interval sp).tsm

theorem witness_IndexEventDrivesTheSweep :
    (∀ st ∈ [SweepState.idle, .armed, .awaitHead, .measuring], (sweeping st).resetLow = false ∧
      ((sweeping st).tsm.timebase ≠ .external ∨ (sweeping st).tsm.nominal = 0) ∧ (sweeping st).sc.state = st ∧
      (sweeping st).sc.trigger = .index ∧ (sweeping st).sc.holder = none) ∧
    ((revolved .measuring 1 7813 .atSpeed).sc.revolutions + 1 < (revolved .measuring 1 7813 .atSpeed).sc.deadline) ∧
    (∀ st ∈ [SweepState.awaitHead, .measuring], (revolved st 2 7813 .atSpeed).sc.deadline = (revolved st 2 7813 .atSpeed).sc.revolutions + 1) ∧
    (let s := (revolved .measuring 2 7813 .atSpeed).withSc { (revolved .measuring 2 7813 .atSpeed).sc with holder := some held67 }
     s.sc.state = .measuring ∧ s.sc.holder ≠ none) ∧
    (∀ s ∈ [revolved .measuring 1 7813 .atSpeed, revolved .awaitHead 2 7751 .atSpeed, revolved .measuring 0 15626 .offSpeed,
        revolved .awaitHead 0 15626 .stopped], s.resetLow = false ∧ s.tsm.timebase = .external ∧ s.tsm.nominal ≠ 0 ∧
      s.tsm.lastIndex = true) ∧
    (revolved .measuring 0 15626 .offSpeed).tsm.interval = 2 * (revolved .measuring 0 15626 .offSpeed).tsm.nominal ∧
    (let t := after (.indexEvent .falling) (revolved .measuring 1 7813 .atSpeed)
     t.sc.revolutions = 2 ∧ t.tsm.lastPeriod = some 7813 ∧ t.sc.state = .measuring) := by decide

theorem witness_InsertionQueueDeliversInOrder :
    let still := placed.withTp { placed.tp with queue := [slotNine, cell67] }
    let moving := placed.withTp { placed.tp with queue := [slotNine, cell67], inFlight := true }
    (still.resetLow = false ∧ still.tp.queue = slotNine :: [cell67] ∧ still.tp.inFlight = false) ∧
    (moving.resetLow = false ∧ moving.tp.queue = slotNine :: [cell67] ∧ moving.tp.inFlight = true) ∧ placed.tp.queue = [] := by
  decide

/-- An INSERT FAULT report in the queue, of slot 10, with a fault count of 3. -/
def faultReport : QueueEntry := { addr := 0xFFFFF940, words := [0x102, 0, 0, 0x30001, 0, 0, 0, 0], kind := .report 10 }

theorem witness_InsertErrorDropsTheRecord :
    (∀ e ∈ [slotNine, faultReport], ∀ n, e.kind = .report n → (ring 12).ra.marks[n] = true) ∧
    (∀ n, cell67.kind = .report n → (ring 12).ra.marks[n] = true) ∧ faultReport.isInsertFault = true ∧
    slotNine.isInsertFault = false ∧ (ring 12).ra.suppressed = false ∧ (ring 12).ra.enabled .insertFault = true ∧
    (let s := (ring 12).withTp { placed.tp with queue := [faultReport, slotNine], inFlight := true }
     s.resetLow = false ∧ s.tp.queue = faultReport :: [slotNine] ∧ s.tp.inFlight = true) := by
  refine ⟨?_, by decide, by decide, by decide, by decide, by decide, by decide⟩
  intro e he n hn
  revert n
  fin_cases he <;> decide

theorem witness_RaiseCreatesOrUpdatesTheEntry :
    ready.ra.enabled .noLock = true ∧ ready.ra.entry .noLock = none ∧
    (ready.raise .noLock { place := none, a := 4, b := 0 }).ra.entry .noLock =
      some { repeats := 1, detail := { place := none, a := 4, b := 0 } } ∧
    (after (.setReports 0x40) ready).ra.enabled .noLock = false := by decide

/-- Three insert faults counted, the last of a result record, and INSERT FAULT pending. -/
def faulted : State :=
  ((ring 60).withRa { (ring 60).ra with tally := 3, latestAddr := some 0x02000860, latestKind := some .result }).raise .insertFault
    { place := none, a := 0x02000860, b := 1 }

/-- FRAME FAULT pending, with 2 frames torn and 9 bad wedges. -/
def tornTwice : State :=
  ((ring 12).withFr { placed.fr with torn := 2, badWedge := 9 }).raise .frameFault { place := none, a := 0, b := 0 }

theorem witness_ReportGrantFillsTheSlotAtTheWriteIndex :
    let closed := (ring 59).raise .cellClosed { place := some (2, 3), a := 1, b := 0 }
    let full := (ring 60).raise .spindleFault { place := none, a := 2, b := 8100 }
    Running 0xFFFFF000 closed ∧ Running 0xFFFFF000 full ∧ closed.ra.occupancy = 55 ∧ full.ra.occupancy = 56 ∧
    (closed.ra.marks[closed.ra.writeIndex] = false ∧ closed.tp.queue.length ≤ 12 ∧ closed.dd.holder = none ∧ closed.sc.holder = none) ∧
    (closed.ra.entry .cellClosed = some { repeats := 1, detail := { place := some (2, 3), a := 1, b := 0 } } ∧
      ∀ j, closed.ra.entry j ≠ none → ReportKind.cellClosed.index ≤ j.index) ∧
    (full.ra.marks[full.ra.writeIndex] = false ∧
      full.ra.entry .spindleFault = some { repeats := 1, detail := { place := none, a := 2, b := 8100 } } ∧
      ∀ j, full.ra.entry j ≠ none → ReportKind.spindleFault.index ≤ j.index) ∧
    (Running 0xFFFFF000 (ring 60) ∧
      ∀ k, (ring 60).ra.entry k = none ∨ (k.urgent = false ∧ 56 ≤ (ring 60).ra.occupancy)) ∧
    (Running 0xFFFFF000 faulted ∧ faulted.ra.marks[faulted.ra.writeIndex] = false ∧ faulted.tp.queue.length ≤ 12 ∧
      faulted.ra.entry .insertFault = some { repeats := 1, detail := { place := none, a := 0x02000860, b := 1 } } ∧
      (∀ j, faulted.ra.entry j ≠ none → ReportKind.insertFault.index ≤ j.index) ∧
      (after .reportGrant faulted).tp.queue.map (fun e => e.words) = [[0x00010102, 0, 0x02000860, 0x00030001, 0, 0, 0, 0]]) ∧
    (Running 0xFFFFF000 tornTwice ∧ tornTwice.ra.marks[tornTwice.ra.writeIndex] = false ∧ tornTwice.ra.occupancy < 56 ∧
      tornTwice.ra.entry .frameFault = some { repeats := 1, detail := { place := none, a := 0, b := 0 } } ∧
      (∀ j, tornTwice.ra.entry j ≠ none → ReportKind.frameFault.index ≤ j.index) ∧
      (after .reportGrant tornTwice).tp.queue.map (fun e => e.words) = [[0x0001000B, 0, 2, 9, 0, 0, 0, 0]] ∧
      (after .reportGrant tornTwice).fr.torn = 0) ∧
    12 < (fullQueue placed).tp.queue.length := by
  refine ⟨⟨rfl, rfl, true, true, rfl⟩, ⟨rfl, rfl, true, true, rfl⟩, by decide, by decide, by decide, ⟨by decide, ?_⟩, ⟨by decide, by decide, ?_⟩,
    ⟨⟨rfl, rfl, true, true, rfl⟩, ?_⟩, ⟨⟨rfl, rfl, true, true, rfl⟩, by decide, by decide, by decide, ?_, by decide⟩,
    ⟨⟨rfl, rfl, true, true, rfl⟩, by decide, by decide, by decide, ?_, by decide, by decide⟩, by decide⟩
  all_goals
    intro j
    cases j <;> decide

/-- An outcome record waiting, its go word's write stalled for it. -/
def waitingOutcome : State :=
  (placed.withDd { placed.dd with holder := some { kind := 0x11, code := .taken, count := 7, detail := 0 } }).withTp
    { placed.tp with upstream := [.write { newWrite (goBurst 0xFFFFF000 0) with todo := [], stall := some .outcome }] }

/-- A write stalled for a holder after its go word, the words at 0xFFFFF020 still to take: those overlap the outcome record. -/
def stalledGo (h : Stall) : WriteProgress :=
  let w : WriteBurst := { addr := 0xFFFFF018, beats := [{ data := 0x0000000100000002, lanes := 0xFF }, { data := 0, lanes := 0xFF }] }
  { newWrite w with taken := (burstWords w).take 2, todo := (burstWords w).drop 2, stall := some h }

theorem witness_OutcomeRecordEntersAndReleasesTheGoWord :
    Running 0xFFFFF000 waitingOutcome ∧ waitingOutcome.tp.queue.length < 16 ∧
    waitingOutcome.dd.holder = some { kind := 0x11, code := .taken, count := 7, detail := 0 } ∧
    waitingOutcome.tp.upstream = [.write { newWrite (goBurst 0xFFFFF000 0) with todo := [], stall := some .outcome }] ∧
    (placed.dd.holder = none ∧ placed.tp.upstream = []) ∧ 16 ≤ (fullQueue placed).tp.queue.length ∧
    (let p := stalledGo .outcome
     p.stall = some .outcome ∧ p.todo ≠ [] ∧
     (let t := after .outcomeRecordEntry (waitingOutcome.withTp { waitingOutcome.tp with upstream := [.write p] })
      t.dd.holder = none ∧ t.ports.down = [] ∧ t.tp.upstream.map (fun x => match x with
        | .write p => (p.todo.length, p.hold, p.stall)
        | .read _ => (0, 0, none)) = [(0, 1, none)])) :=
  ⟨⟨rfl, rfl, true, true, rfl⟩, by decide, rfl, rfl, ⟨rfl, rfl⟩, by decide, rfl, by decide, by decide⟩

/-- A result record waiting, and a frame word 7 write stalled for it. -/
def waitingResult : State :=
  (placed.withSc { placed.sc with holder := some held67 }).withTp { placed.tp with
    outstanding := [.read { addr := 0x02000878, lanes := [0xFF] } true [67] []]
    upstream := [.write { newWrite (burst 0x1018 [(1, 2)]) with
      taken := burstWords (burst 0x1018 [(1, 2)]), todo := [], stall := some .result }] }

theorem witness_ResultRecordEntersWithItsOverrunFlag :
    (let s := placed.withSc { placed.sc with holder := some held67 }
     s.resetLow = false ∧ s.sc.holder = some held67 ∧ s.tp.queue.length < 16 ∧ s.dd.holder = none ∧ s.tp.upstream = []) ∧
    waitingOutcome.dd.holder ≠ none ∧
    (waitingResult.resetLow = false ∧ waitingResult.sc.holder = some held67 ∧ waitingResult.tp.queue.length < 16 ∧
      waitingResult.dd.holder = none) ∧
    (let t := after .resultRecordEntry waitingResult
     t.tp.upstream = [] ∧ t.ports.down.length = 1 ∧
       t.tp.outstanding = [.read { addr := 0x02000878, lanes := [0xFF] } true [] [], .write 0x1018]) ∧
    (stalledGo .result).todo ≠ [] := by decide

/-- What a write waits for, found word by word. -/
theorem held_of {q : List QueueEntry} {xs : List WordWrite} {n : Nat}
    (h : xs.foldl (fun k x => max k (holdDepth q x)) 0 = n) : Held q xs 0 n := by
  have general : ∀ (ys : List WordWrite) (k : Nat), Held q ys k (ys.foldl (fun k x => max k (holdDepth q x)) k) := by
    intro ys
    induction ys with
    | nil => exact fun k => held_nil q k
    | cons y rest ih => exact fun k => (held_word q y k).append (ih _)
  subst h
  exact general xs 0

/-- Two words lie in the queue's first record, and outside the windows of `placed`. -/
def overRecord : WriteBurst := burst 0x02000878 [(1, 2), (3, 4)]

/-- The result area is no window that a block watches for writes. -/
theorem overRecord_outside (s : State) (h1 : s.tp.captureRing = some { base := 0x1000, slots := 64 }) (h2 : s.ip.window = none) :
    ∀ x ∈ burstWords overRecord, OutsideWindows 0xFFFFF000 s x.addr := by
  have outside : ∀ x, 0x02000000 ≤ x ∧ x < 0x02001000 → OutsideWindows 0xFFFFF000 s x := by
    intro x hx
    refine ⟨by omega, fun r hr => ?_, fun w hw => (by rw [h2] at hw; cases hw)⟩
    rw [h1] at hr
    obtain rfl := Option.some.inj hr
    simp only
    omega
  intro x hx
  exact outside x.addr (by revert x; decide)

theorem witness_HeldTransactionPassesWhenFree :
    let r : ReadBurst := { addr := 0x02000860, lanes := List.replicate 4 0xFF }
    let clear : ReadBurst := { addr := 0x02000880, lanes := List.replicate 4 0xFF }
    readHeld [cell67] r = true ∧ readHeld [cell67] clear = false ∧
    (let s := placed.withTp { placed.tp with queue := [cell67], upstream := [.read r, .read clear] }
     s.resetLow = false ∧ s.tp.upstream = .read r :: [.read clear]) ∧
    (let p := { newWrite (goBurst 0xFFFFF000 0) with todo := [] }
     p.stall = none ∧ p.todo = [] ∧ p.hold = 0) ∧
    (let s := placed.withTp { placed.tp with queue := [outcomeAt 1, cell67], upstream := [.write (newWrite overRecord), .read clear] }
     (s.resetLow = false ∧ s.tp.upstream = .write (newWrite overRecord) :: [.read clear]) ∧ Running 0xFFFFF000 s ∧
     (newWrite overRecord).stall = none ∧ (∀ x ∈ (newWrite overRecord).todo, x.enables ≠ 0 → OutsideWindows 0xFFFFF000 s x.addr) ∧
     Held s.tp.queue (newWrite overRecord).todo (newWrite overRecord).hold 2) :=
  ⟨by decide, by decide, ⟨rfl, rfl⟩, ⟨rfl, rfl, rfl⟩, ⟨rfl, rfl⟩, ⟨rfl, rfl, true, true, rfl⟩, rfl,
    fun x hx _ => overRecord_outside _ rfl rfl x hx, held_of (by decide)⟩

theorem witness_ReadArrivalKeepsItsNotices :
    let r : ReadBurst := { addr := 0xFFFFF018, lanes := [0xFF, 0xFF] }
    PortFree 0xFFFFF000 placed ∧ r.wf = true ∧ placed.tp.resultArea = some 0x02000000 ∧ 0x02000000 % 16384 = 0 ∧
    readHeld [] r = false ∧ readHeld [outcomeAt 1] r = true ∧ readHeld [outcomeAt 1] { r with lanes := [0xFF, 0] } = false ∧
    (PortFree 0xFFFFF000 ready ∧ ready.tp.resultArea = none ∧
      (let slots : ReadBurst := { addr := 0xFFFFF838, lanes := [0xFF, 0xFF, 0xFF, 0xFF, 0xF0] }
       slots.wf = true ∧ (after (.consumptionNotice (.arrive slots)) ready).tp.outstanding = [.read slots false [] [1, 2]])) :=
  ⟨free_of rfl rfl rfl, by decide, rfl, by decide, by decide, by decide, by decide, free_of rfl rfl rfl, rfl, by decide, by decide⟩

/-- A write whose stall has ended, with words 6 and 7 of slot 43 and a part of slot 44 left, and a read behind it: the words are
taken as strays of two slots, and the write passes whole. -/
theorem witness_HeldTransactionPassesWhenFree_resumed :
    let clear : ReadBurst := { addr := 0x02000880, lanes := List.replicate 4 0xFF }
    let w : WriteBurst :=
      { addr := 0x1578, beats := [{ data := beatOf 2 1, lanes := 0xFF }, { data := beatOf 4 3, lanes := 0x70 }] }
    let p : WriteProgress :=
      { addr := 0x1570, taken := burstWords { w with addr := 0x1570 }, todo := burstWords w
        run := some { slot := 42, counted := false }, hold := 0, stall := none }
    let s := placed.withTp { placed.tp with upstream := [.write p, .read clear] }
    (s.resetLow = false ∧ s.tp.upstream = .write p :: [.read clear] ∧ p.stall = none ∧ burstWords w = p.todo) ∧
    (let t := after (.upstreamWrite (.arrive w)) placed
     t.tp.upstream = [] ∧ t.ports.down = [.write 0x1578 (burstWords w)]) ∧
    (let t := after .heldTransactionRelease s
     t.fr.torn = 2 ∧ t.ports.down = [.write 0x1570 (p.taken ++ p.todo)] ∧ t.tp.upstream = [.read clear]) :=
  ⟨⟨rfl, rfl, rfl, rfl⟩, by decide, by decide⟩

/-- Answers ERROR to reads that pass while the result area is as in one state and are answered while it is as in the other: of
the reads that pass as reads of the area, with their first byte or their last, no data comes back, wherever the area has gone;
the reads just below it and above it return memory's, and so do those that pass while there is none. -/
theorem witness_ReadAnswerGivesItsNotices_error :
    let reads : List ReadBurst := [{ addr := 0x02000860, lanes := [0xFF, 0x0F] }, { addr := 0x01FFFFF8, lanes := [0xFF] },
      { addr := 0x02003FF8, lanes := [0x7F, 0xFF] }, { addr := 0x02003FF8, lanes := [0, 0xFF] }]
    let absent := { placed with tp := { placed.tp with resultArea := none } }
    let moved := { placed with tp := { placed.tp with resultArea := some 0x02004000 } }
    let sent := fun (s : State) (r : ReadBurst) => after (.resultReadNotice (.arrive r)) s
    let beats := fun (s u : State) (r : ReadBurst) =>
      (after (.resultReadNotice (.answer 0 .error (List.replicate r.lanes.length 9)))
        (u.withTp { u.tp with outstanding := (sent s r).tp.outstanding })).ports.up.map fun x => match x with
        | .readReply _ _ b => b.length
        | .writeReply _ _ => 99
    (∀ r ∈ reads, r.wf = true ∧ (sent placed r).resetLow = false) ∧
    (placed.tp.resultArea = some 0x02000000 ∧ 0x02000000 % 16384 = 0) ∧
    reads.map (fun r => (sent placed r).tp.outstanding) = List.zipWith (fun r x => [.read r x.1 x.2 []]) reads
      [(true, []), (false, []), (true, [511]), (false, [])] ∧
    (∀ u ∈ [placed, absent, moved], reads.map (beats placed u) = [[0], [1], [0], [2]]) ∧
    (∀ u ∈ [placed, absent, moved], reads.map (beats absent u) = [[2], [1], [2], [2]]) := by decide

theorem witness_ReadAnswerGivesItsNotices :
    let r : ReadBurst := { addr := 0xFFFFF8C0, lanes := List.replicate 8 0xFF }
    let s := (ring 62).withTp { placed.tp with outstanding := [.write 0x2000, .read r true [67] [6, 7]] }
    s.resetLow = false ∧ s.tp.outstanding[1]? = some (.read r true [67] [6, 7]) ∧ (List.replicate 8 0#64).length = r.lanes.length ∧
    s.ra.occupancy = countMarks s.ra.marks ∧ s.ra.attn = decide (0 < s.ra.occupancy) := by decide

/-- The 32 bytes from 0x1800, just past the capture ring of `placed`, and those just below it. -/
theorem witness_WritePassesThroughUnchanged :
    (PortFree 0xFFFFF000 placed ∧ QueueClear [] 0x1800 32) ∧
    (∀ a ∈ [0x1800, 0xFE0], (burst a [(1, 2), (3, 4), (5, 6), (7, 8)]).wf = true ∧
      ∀ x ∈ burstWords (burst a [(1, 2), (3, 4), (5, 6), (7, 8)]), OutsideWindows 0xFFFFF000 placed x.addr) ∧
    (let s := placed.withTp { placed.tp with queue := [cell67] }
     PortFree 0xFFFFF000 s ∧ overRecord.wf = true ∧
       (∀ x ∈ burstWords overRecord, x.enables ≠ 0 → OutsideWindows 0xFFFFF000 s x.addr) ∧
       Held s.tp.queue (burstWords overRecord) 0 1) ∧
    (let s := placed.withTp { placed.tp with upstream := [.read { addr := 0, lanes := [0xFF] }] }
     s.resetLow = false ∧ s.tp.upstream ≠ []) ∧
    (let s := placed.withTp { placed.tp with outstanding := [.write 0x2000] }
     s.resetLow = false ∧ s.tp.outstanding[0]? = some (.write 0x2000)) := by
  refine ⟨⟨free_of rfl rfl rfl, by simp [QueueClear]⟩, ?_,
    ⟨free_of rfl rfl rfl, by decide, fun x hx _ => overRecord_outside _ rfl rfl x hx, held_of (by decide)⟩, by decide, by decide⟩
  have outside : ∀ x, (0xFE0 ≤ x ∧ x < 0x1000) ∨ (0x1800 ≤ x ∧ x < 0x1820) → x % 4 = 0 → OutsideWindows 0xFFFFF000 placed x := by
    intro x hx h4
    refine ⟨by omega, fun r hr => ?_, fun w hw => (by cases hw)⟩
    obtain rfl := Option.some.inj hr
    simp only
    omega
  intro a ha
  fin_cases ha
  · exact ⟨by decide, fun x hx => outside x.addr (by revert x; decide) (by revert x; decide)⟩
  · exact ⟨by decide, fun x hx => outside x.addr (by revert x; decide) (by revert x; decide)⟩

theorem witness_MailboxWriteLatchesWords :
    let w : WriteBurst := { addr := 0xFFFFF010, beats := [{ data := 7, lanes := 0x3F }, { data := 9, lanes := 0xEF }] }
    let go : WriteBurst := { addr := 0xFFFFF010, beats := [{ data := 7, lanes := 0x3F }, { data := 0x500000009, lanes := 0xFF }] }
    (PortFree 0xFFFFF000 ready ∧ w.wf = true ∧ go.wf = true) ∧
    (∀ v ∈ [w, go], ∀ x ∈ burstWords v, x.enables ≠ 0 → 0xFFFFF000 ≤ x.addr ∧ x.addr < 0xFFFFF000 + 32) ∧
    (∀ x ∈ burstWords w, x.addr = 0xFFFFF000 + 28 → x.enables ≠ 0xF) ∧
    (Held [{ slotNine with addr := 0xFFFFF000 }] (burstWords w) 0 1 ∧ Held ready.tp.queue (burstWords w) 0 0) ∧
    DirectiveReady 0xFFFFF000 ready ∧ ∃ x ∈ burstWords go, x.addr = 0xFFFFF000 + 28 ∧ x.enables = 0xF ∧ x.data = 5 :=
  ⟨⟨free_of rfl rfl rfl, by decide, by decide⟩, by decide, by decide, ⟨held_of (by decide), held_of (by decide)⟩,
    ready_of rfl rfl rfl rfl rfl, by decide⟩

/-- The windows of `placed`, with an image window that shares no byte with them. -/
theorem windows_of {s : State} (h1 : s.resetLow = false) (h2 : s.tp.controlBase = some 0xFFFFF000)
    (h3 : s.tp.captureRing = some { base := 0x1000, slots := 64 }) (h4 : s.tp.resultArea = some 0x02000000)
    (h5 : s.ip.state = .unset ↔ s.ip.window = none)
    (h6 : ∀ w, s.ip.window = some w → w = { base := 0x100000, length := 512, checksum := 0x1FE }) : WindowInv s where
  running := fun _ => ⟨_, h1, h2, true, true, rfl⟩
  low := fun h => by rw [h1] at h; cases h
  unset := h5
  capture := fun r hr => by rw [h3] at hr; cases hr; decide
  result := fun a ha => by rw [h4] at ha; cases ha; decide
  image := fun w hw => by rw [h6 w hw]; decide
  captureControl := fun b r hb hr => by rw [h2] at hb; rw [h3] at hr; cases hb; cases hr; left; decide
  resultControl := fun b a hb ha => by rw [h2] at hb; rw [h4] at ha; cases hb; cases ha; left; decide
  imageControl := fun b w hb hw => by rw [h2] at hb; rw [h6 w hw]; cases hb; left; decide
  captureResult := fun r a hr ha => by rw [h3] at hr; rw [h4] at ha; cases hr; cases ha; left; decide
  captureImage := fun r w hr hw => by rw [h3] at hr; rw [h6 w hw]; cases hr; left; decide
  resultImage := fun a w ha hw => by rw [h4] at ha; rw [h6 w hw]; cases ha; right; decide

/-- The windows of `placed` are well placed. -/
theorem placed_windows : WindowInv placed := windows_of rfl rfl rfl rfl ⟨fun _ => rfl, fun _ => rfl⟩ (fun w hw => by cases hw)

/-- A burst that runs on from its go word: word 7 alone, then words 8 and 9, which the outcome record its go word queues holds.
With the queue full it is stalled at its go word. -/
theorem witness_MailboxWriteLatchesWords_runsOn :
    let w : WriteBurst := { addr := 0xFFFFF018, beats := [{ data := beatOf 5 0, lanes := 0xF0 }, { data := beatOf 4 3, lanes := 0xFF }] }
    let go : WordWrite := { addr := 0xFFFFF000 + 28, data := 5, enables := 0xF }
    let rest : List WordWrite :=
      [{ addr := 0xFFFFF020, data := 3, enables := 0xF }, { addr := 0xFFFFF024, data := 4, enables := 0xF }]
    (∀ s ∈ [placed, fullQueue placed], PortFree 0xFFFFF000 s ∧ QueueClear s.tp.queue 0xFFFFF000 32 ∧ s.dd.holder = none ∧
      WindowInv s) ∧
    (w.wf = true ∧ burstWords w = [{ addr := 0xFFFFF018, data := 0, enables := 0 }] ++ go :: rest ∧
      ∀ x ∈ [{ addr := 0xFFFFF018, data := 0, enables := 0 }] ++ rest, x.enables ≠ 0 →
        0xFFFFF000 ≤ x.addr ∧ x.addr < 0xFFFFF000 + 4096) ∧
    (let t := after (.mailboxWrite w) placed
     t.tp.queue.map (fun e => e.addr) = [0xFFFFF020] ∧ t.ports.down = [] ∧
       t.tp.upstream.map (fun x => match x with
         | .write p => (p.taken.length, p.hold, p.stall)
         | .read _ => (0, 0, none)) = [(4, 1, none)]) ∧
    (let t := after (.mailboxWrite w) (fullQueue placed)
     t.tp.upstream.map (fun x => match x with
         | .write p => (p.todo, p.hold, p.stall)
         | .read _ => ([], 0, none)) = [(rest, 0, some .outcome)]) := by
  refine ⟨?_, by decide, by decide, by decide⟩
  intro s hs
  simp only [List.mem_cons, List.not_mem_nil, or_false] at hs
  rcases hs with rfl | rfl
  · exact ⟨free_of rfl rfl rfl, fun e he => (by cases he), rfl, placed_windows⟩
  · exact ⟨free_of rfl rfl rfl, by simp only [QueueClear]; decide, rfl,
      windows_of rfl rfl rfl rfl ⟨fun _ => rfl, fun _ => rfl⟩ (fun w hw => by cases hw)⟩

/-- The image of section 7.6 with E3 LIVE. -/
def served : State := imaged .published [entry3 (some 0x8010) (.live 0x80AC)] 65380

/-- The windows of `served` are well placed. -/
theorem served_windows : WindowInv served :=
  windows_of rfl rfl rfl rfl ⟨fun h => (by cases h), fun h => (by cases h)⟩ (fun w hw => (Option.some.inj hw).symm)

/-- The image record of `served` is well formed. -/
theorem served_image : ImageInv served where
  unset := ⟨fun h => (by cases h), fun h => (by cases h)⟩
  empty := fun h => by cases h
  checksum := fun w hw => by obtain rfl := Option.some.inj hw; decide
  fields := fun w hw e he => by
    obtain rfl := Option.some.inj hw
    obtain rfl := List.mem_singleton.mp he
    exact ⟨by decide, by decide, by decide, by decide, by decide, Or.inl (by decide)⟩
  count := by decide
  order := List.pairwise_singleton _ _
  dormant := fun h => absurd rfl h
  live := fun e he frozen _ => by obtain rfl := List.mem_singleton.mp he; decide
  adjustment := by decide

theorem witness_ImageWriteKeepsBaselinesAndAdjustment :
    let w : WriteBurst := { addr := 0x100060, beats := [{ data := 0x8020, lanes := 0x01 }] }
    let last : WriteBurst := { addr := 0x1001F8, beats := [{ data := 0, lanes := 0xFF }] }
    PortFree 0xFFFFF000 served ∧ WindowInv served ∧ ImageInv served ∧
    served.ip.window = some { base := 0x100000, length := 512, checksum := 0x1FE } ∧
    (∀ x ∈ [w, last], x.wf = true) ∧ Held [cell67] (burstWords w) 0 0 ∧
    ∀ v ∈ [w, last], ∀ x ∈ burstWords v, x.enables ≠ 0 → 0x100000 ≤ x.addr ∧ x.addr < 0x100000 + 512 := by
  exact ⟨free_of rfl rfl rfl, served_windows, served_image, rfl, by decide, held_of (by decide), by decide⟩

theorem witness_ReturnedBytesAreSubstituted :
    (placed.ip.state ≠ .published ∨ placed.ip.window = none) ∧
    (served.ip.state = .published ∧ served.ip.window = some { base := 0x100000, length := 512, checksum := 0x1FE }) ∧
    (0x100060 % 8 = 0 ∧ 0x100000 % 64 = 0 ∧ 0x1FE % 2 = 0) ∧
    (0x0FFFF8 + 7 < 0x100000 ∧ 0x100000 + 512 ≤ 0x100200 + 0) ∧ (0x1001F8 + 6 - 0x100000) / 2 * 2 = 0x1FE ∧
    (0x1001F8 + 5 - 0x100000) / 2 * 2 ≠ 0x1FE ∧
    (let e := entry3 (some 0x8010) (.live 0x80AC)
     e ∈ served.ip.map ∧ e.state = .live 0x80AC ∧ (e.offset ≤ 0x61 ∧ 0x61 < e.offset + e.width / 8) ∧
       ∀ x ∈ served.ip.map, x.isLive = true → x.offset ≤ 0x61 ∧ 0x61 < x.offset + x.width / 8 → x = e) ∧
    ∀ e ∈ served.ip.map, e.isLive = true → ¬ (e.offset ≤ 0x62 ∧ 0x62 < e.offset + e.width / 8) := by decide

/-- The geometry of section 5.11. -/
theorem sweeping_geometry (st : SweepState) : GeometryInv (sweeping st).fr where
  heads := by cases st <;> decide
  zoneCount := by cases st <;> decide
  wpr := by cases st <;> decide
  gapLimit := by cases st <;> decide
  zones := by cases st <;> decide
  counts := by cases st <;> decide
  frame := fun f hf => by cases hf

theorem witness_FrameIsGradedAndZoned : GeometryInv (sweeping .idle).fr ∧
    (let f := bursts 25000 17000 37000 5000
     (sweeping .idle).fr.heads ≤ ({ f with head := 4 } : FrameRecord).head.val ∧
     ({ f with head := 3 } : FrameRecord).head.val < (sweeping .idle).fr.heads ∧ f.trackValid = true ∧
     ({ f with trackValid := false } : FrameRecord).trackValid = false ∧
     [f, { f with wedge := 255 }, { f with wedge := 256 }, { f with burstA := 0, burstB := 0, burstC := 0, burstD := 9 }].map
       (fun f => (reduceFrame (sweeping .idle).fr 0 2048 f).grade) = [.good, .good, .void, .clamped]) :=
  ⟨sweeping_geometry _, by decide⟩

theorem witness_TrackOffsetFollowsTheArithmetic :
    (let x := burstSums (bursts 0 0 5000 0) 0
     x.sn = 0 ∧ x.sq ≠ 0) ∧
    (let x := burstSums (bursts 1 0 0 0) 0
     x.sq = 0 ∧ x.sn ≠ 0 ∧ chooseRegion x = .normal) ∧
    (let x := burstSums (bursts 1000 31000 13000 19000) 1000
     x.sn ≠ 0 ∧ x.sq ≠ 0 ∧ chooseRegion x = .quadrature) := by decide

/-- The queue full of records clear of the capture ring, and a sweep of head 0 and zone 0 one frame short of its quota of 1,
head 0 FOLLOWING at wedge 40. -/
def nearlyClosed : State :=
  let fm := placed.fm.setRecord 0 { placed.fm.record 0 with state := .following, window := 511 }
  ((fullQueue placed).withFm { fm with active := some 0, last := { head := some 0, track := some 0, wedge := some 40 } }).withSc
    { placed.sc with state := .awaitHead, quota := 1, limit := 511, spreadLimit := 511, passNumber := 1 }

/-- The frame of `frameBurst` at word 5. -/
def five41 : FrameRecord := { bursts 0 30000 12000 18000 with slot := 63, wedge := 41 }

/-- The same at word 7, in a state. -/
def seven41 (s : State) : FrameRecord :=
  let r := reduceFrame s.fr 0 2048 five41
  { five41 with expects := 7, reduction := some r, shown := answerFollow s.fr.wpr s.fr.gapLimit s.fm (seenFrame five41 r) }

/-- Whether the completion of that frame leaves a record in the result holder. -/
def closesHeld (s : State) : Bool :=
  ((s.withFr { s.fr with frame := some (seven41 s) }).completeSeen (seven41 s) (reduceFrame s.fr 0 2048 five41)).1.sc.holder.isSome

theorem witness_WholeFrameIsAnnotatedAndCompleted :
    (∀ s ∈ [placed, nearlyClosed], PortFree 0xFFFFF000 s ∧ WindowInv s ∧ s.tp.captureRing = some { base := 0x1000, slots := 64 } ∧
      s.fr.frame = none ∧ QueueClear s.tp.queue (0x1000 + 32 * 63) 32 ∧ s.sc.holder = none) ∧
    63 < 64 ∧ (frameBurst 63).addr = BitVec.ofNat 32 (0x1000 + 32 * 63) ∧
    (reduceFrame placed.fr 0 2048 five41).grade ≠ .foreign ∧ closesHeld placed = false ∧ closesHeld nearlyClosed = true ∧
    (∀ n ∈ [1, 2, 3, 4, 5], (assembling 63 n placed).fr.frame = some { bursts 0 0 0 0 with slot := 63, expects := n }) ∧
    ((placed.withFr { placed.fr with frame := some { seven41 placed with expects := 6 } }).fr.frame =
      some { seven41 placed with expects := 6 } ∧ (seven41 placed).reduction = some (reduceFrame placed.fr 0 2048 five41)) ∧
    (let s := nearlyClosed.withFr { placed.fr with frame := some (seven41 nearlyClosed) }
     (PortFree 0xFFFFF000 s ∧ WindowInv s ∧ s.tp.captureRing = some { base := 0x1000, slots := 64 } ∧
       QueueClear s.tp.queue (0x1000 + 32 * 63) 32) ∧ (seven41 nearlyClosed).slot = 63 ∧ (seven41 nearlyClosed).expects = 7) ∧
    (let t := after (.captureWrite (frameBurst 63)) nearlyClosed
     t.fr.frame = none ∧ t.sc.state = .idle ∧ t.sc.holder.isSome = true ∧ t.ports.down = [] ∧
       t.tp.upstream.map (fun x => match x with
         | .write p => (p.addr, p.taken.map fun w => w.data, p.stall)
         | .read _ => (0, [], none)) =
       [(0x17E0, [0x00008290, 0x80000000, 0x75300000, 0x46502EE0, 0, 0x000106CD, 0x00010001, 0x0000EA60], some .result)]) := by
  have clear : QueueClear nearlyClosed.tp.queue (0x1000 + 32 * 63) 32 := by
    simp only [QueueClear]
    decide
  have windows : ∀ s : State, s.tp = nearlyClosed.tp → s.resetLow = false → s.ip = placed.ip → WindowInv s := fun s h1 h2 h3 =>
    windows_of h2 (by rw [h1]; rfl) (by rw [h1]; rfl) (by rw [h1]; rfl) (by rw [h3]; exact ⟨fun _ => rfl, fun _ => rfl⟩)
      (fun w hw => by rw [h3] at hw; cases hw)
  refine ⟨?_, by decide, by decide, by decide, by decide, by decide, by decide, ⟨rfl, rfl⟩,
    ⟨⟨free_of rfl rfl rfl, windows _ rfl rfl rfl, rfl, clear⟩, by decide, by decide⟩, by decide⟩
  intro s hs
  rcases List.mem_cons.mp hs with rfl | hs
  · exact ⟨free_of rfl rfl rfl, placed_windows, rfl, rfl, fun e he => (by cases he), rfl⟩
  · obtain rfl := List.mem_singleton.mp hs
    exact ⟨free_of rfl rfl rfl, windows _ rfl rfl rfl, rfl, rfl, clear, rfl⟩

/-- Words 6 and 7 of slot 43, then a part of word 1 of slot 44 whose word 0 is not written: strays of two slots. -/
def strays43 : List Beat := [{ data := beatOf 2 1, lanes := 0xFF }, { data := beatOf 4 3, lanes := 0x70 }]

/-- Section 1.2, step 6: words 4 to 7 of slot 47, word 5 with its two low byte enables. -/
def torn47 : List Beat := [{ data := beatOf 2 1, lanes := 0x3F }, { data := beatOf 4 3, lanes := 0xFF }]

/-- The hypotheses of the last clause of `TornAndStrayWordsAreCounted` that speak of the answers, for a write in two parts. -/
def parts (s : State) (w1 w2 : WriteBurst) (words1 words2 : List WordWrite) : Bool :=
  let t := after (.captureWrite w1) s
  let u := after (.captureWrite w2) { t with tp := { t.tp with outstanding := t.tp.outstanding.dropLast }, ports := s.ports }
  decide (t.ports.down = s.ports.down ++ [.write w1.addr.toNat words1]) &&
    decide (u.ports.down = s.ports.down ++ [.write w2.addr.toNat words2])

theorem witness_TornAndStrayWordsAreCounted :
    PortFree 0xFFFFF000 (assembling 63 4 placed) ∧ WindowInv (assembling 63 4 placed) ∧
    (assembling 63 4 placed).tp.captureRing = some { base := 0x1000, slots := 64 } ∧ (63 < 64 ∧ 7 < 8) ∧
    QueueClear (assembling 63 4 placed).tp.queue (0x1000 + 32 * 63) 32 ∧
    ((0xF0#8).extractLsb' (4 * (7 % 2)) 4 = 0xF ∧ (0x70#8).extractLsb' (4 * (7 % 2)) 4 ≠ 0xF ∧
      (0x70#8).extractLsb' (4 * (7 % 2)) 4 ≠ 0 ∧ (0xF0#8).extractLsb' (4 - 4 * (7 % 2)) 4 = 0 ∧
      (0x0F#8).extractLsb' (4 * (0 % 2)) 4 = 0xF ∧ (0x0F#8).extractLsb' (4 - 4 * (0 % 2)) 4 = 0) ∧
    (placed.fr.frame = none ∧ (assembling 63 4 placed).fr.frame ≠ none) ∧
    (∀ f, (assembling 0 4 placed).fr.frame = some f → f.slot ≠ 63) ∧
    (assembling 63 4 placed).fr.frame = some { bursts 0 0 0 0 with slot := 63, expects := 4 } :=
  ⟨free_of rfl rfl rfl, windows_of rfl rfl rfl rfl ⟨fun _ => rfl, fun _ => rfl⟩ (fun w hw => by cases hw), rfl, by decide,
    fun e he => (by cases he), by decide, by decide, fun f hf => (by obtain rfl := Option.some.inj hf; decide), rfl⟩

/-- Section 1.2, steps 4 and 3: one slot run of strays, and a word that tears with one that is its remainder. -/
theorem witness_TornAndStrayWordsAreCounted_run :
    (let w := burst 0x1530 [(1, 2), (3, 4)]
     PortFree 0xFFFFF000 placed ∧ WindowInv placed ∧ placed.tp.captureRing = some { base := 0x1000, slots := 64 } ∧
       placed.fr.frame = none ∧ w.wf = true ∧ QueueClear placed.tp.queue (0x1000 + 32 * 41) 32 ∧
       (∀ x ∈ burstWords w, x.enables ≠ 0 ∧ 0x1520 ≤ x.addr ∧ x.addr < 0x1540 ∧ x.addr ≠ 0x1520) ∧
       (after (.captureWrite w) placed).fr.torn = 1) ∧
    (let w := burst 0x1528 [(1, 2)]
     w.wf = true ∧ (assembling 41 4 placed).fr.frame = some { bursts 0 0 0 0 with slot := 41, expects := 4 } ∧
       burstWords w = [] ++ { addr := 0x1528, data := 1, enables := 0xF } :: [{ addr := 0x152C, data := 2, enables := 0xF }] ∧
       (after (.captureWrite w) (assembling 41 4 placed)).fr.torn = 1) :=
  ⟨⟨free_of rfl rfl rfl, placed_windows, rfl, rfl, by decide, fun e he => (by cases he), by decide, by decide⟩, by decide⟩

/-- A whole frame of slot 40 while one of slot 41 is assembling: the old one is torn, the new one complete. -/
theorem witness_TornAndStrayWordsAreCounted_over :
    (frameBurst 40).wf = true ∧ (assembling 41 4 placed).fr.frame ≠ none ∧
    (∃ rest, burstWords (frameBurst 40) = [] ++ { addr := 0x1000 + 32 * 40, data := 0x00008290, enables := 0xF } :: rest) ∧
    (let t := after (.captureWrite (frameBurst 40)) (assembling 41 4 placed)
     t.fr.torn = 1 ∧ t.fr.frame = none ∧ t.ports.down.length = 1) := ⟨by decide, by decide, ⟨_, rfl⟩, by decide⟩

/-- A write of strays in two slots, parted between them, counts 2. -/
theorem witness_TornAndStrayWordsAreCounted_slots :
    let w : WriteBurst := { addr := 0x1578, beats := strays43 }
    let w1 : WriteBurst := { addr := 0x1578, beats := strays43.take 1 }
    let w2 : WriteBurst := { addr := 0x1580, beats := strays43.drop 1 }
    (w.wf = true ∧ w1.wf = true ∧ w2.wf = true ∧ ∀ x ∈ burstWords w, 0x1000 ≤ x.addr ∧ x.addr < 0x1000 + 32 * 64) ∧
    burstWords w = burstWords w1 ++ burstWords w2 ∧ parts placed w1 w2 (burstWords w1) (burstWords w2) = true ∧
    (∀ x ∈ burstWords w1, ∀ y ∈ burstWords w2, (x.addr - 0x1000) / 32 ≠ (y.addr - 0x1000) / 32) ∧
    (after (.captureWrite w) placed).fr.torn = 2 := by decide

/-- Section 1.2, step 6, parted after word 4, which the frame of slot 47 takes: the tear counts 1. -/
theorem witness_TornAndStrayWordsAreCounted_inside :
    let s := assembling 47 4 placed
    let w : WriteBurst := { addr := 0x15F0, beats := torn47 }
    let w1 : WriteBurst := { addr := 0x15F0, beats := [{ data := beatOf 2 1, lanes := 0x0F }] }
    let w2 : WriteBurst := { addr := 0x15F0, beats := { data := beatOf 2 1, lanes := 0x30 } :: torn47.drop 1 }
    (w.wf = true ∧ w1.wf = true ∧ w2.wf = true) ∧
    (burstWords w1).filter (fun x => x.enables ≠ 0) = ((burstWords w).take 1).filter (fun x => x.enables ≠ 0) ∧
    (burstWords w2).filter (fun x => x.enables ≠ 0) = ((burstWords w).drop 1).filter (fun x => x.enables ≠ 0) ∧
    parts s w1 w2 (burstWords w1) (burstWords w2) = true ∧
    (after (.captureWrite w1) s).fr.frame = some { bursts 0 0 0 0 with slot := 47, expects := 5, amplitude := 1 } ∧
    (after (.captureWrite w) s).fr.torn = 1 := by decide

/-- The part with a read of cell 0 sent and not answered, one frame short of closing that cell. -/
def nearlyRecorded : State :=
  nearlyClosed.withTp { placed.tp with outstanding := [.read { addr := 0x02000018, lanes := [0xF0] } true [0] []] }

/-- A whole frame of slot 40 and a stray of slot 41: the frame closes cell 0, its record enters the queue, and the read that was
sent loses its notice; the stray counts 1. -/
theorem witness_TornAndStrayWordsAreCounted_record :
    let stray : Beat := { data := beatOf 2 1, lanes := 0xF0 }
    let w : WriteBurst := { addr := 0x1500, beats := (frameBurst 40).beats ++ [stray] }
    let w2 : WriteBurst := { addr := 0x1520, beats := [stray] }
    let u := after (.captureWrite w) nearlyRecorded
    (w.wf = true ∧ (frameBurst 40).wf = true ∧ w2.wf = true ∧ burstWords w = burstWords (frameBurst 40) ++ burstWords w2) ∧
    (u.fr.frame, u.tp.outstanding, u.fr.torn, u.tp.queue.length) =
      (none, [.read { addr := 0x02000018, lanes := [0xF0] } true [] [], .write 0x1500], 1, 1) := by decide

/-- Its first part alone. -/
theorem witness_TornAndStrayWordsAreCounted_first :
    let t := after (.captureWrite (frameBurst 40)) nearlyRecorded
    (t.fr.frame, t.tp.outstanding.dropLast, t.tp.queue.length, t.ports.down.length) =
      (none, [.read { addr := 0x02000018, lanes := [0xF0] } true [] []], 1, 1) := by decide

/-- Every field of the records at the ends of its range. -/
theorem witness_record_fields :
    (∀ p ∈ ([-512, 511] : List Int), -512 ≤ p ∧ p ≤ 511) ∧ (held67.n ≤ 4096 ∧ held67.spread ≤ 65535 ∧ held67.missed ≤ 65535 ∧
      held67.slips ≤ 65535 ∧ held67.passNumber ≤ 65535 ∧ held67.value = some 12 ∧ held67.kind = .centre) ∧
    resultWords { held67 with kind := .jog, value := some (-1), extremes := some (-2, 32767) } true =
      [0x01010302, 4, 0xC000FFFF, 0x7FFFFFFE, 0x00010001, 4, 0, 0x80000002] ∧
    resultWords { held67 with value := none, spread := 0, outcome := .noHead } false =
      [0x06000302, 4, 0, 0, 0x00010001, 4, 0, 2] := by decide

/-- A frame of head 3 on track 8. -/
def seen3 (wedge : Nat) (g : Grade) : FrameSeen :=
  { head := 3, wedge := wedge, markFound := true, track := 8, trackValid := true, grade := g, offset := 64 }

/-- Head 3 active in a follow state, its last wedge known. -/
def follows (st : FollowState) : FollowMonitor :=
  { ready.fm with active := some 3, last := { head := some 3, track := some 8, wedge := some 254 } }.setRecord 3
    { ready.fm.record 3 with state := st, run := 2, acquire := 3 }

theorem witness_EntryChecksFindSwitchSeekAndGap :
    (ready.fm.active ≠ some (seen3 5 .good).head ∧ 1 ≤ 256) ∧ (follows .following).active = some (seen3 5 .good).head ∧
    (({ seen3 5 .good with track := 9 } : FrameSeen).trackValid = true ∧ (follows .following).last.track = some 8 ∧ 8 ≠ 9) ∧
    (seen3 5 .void).grade = .void ∧ (follows .following).last.wedge = some 254 ∧
    [255, 0, 2, 3, 254].map (fun w => (entryChecks 256 3 (follows .following) (seen3 w .good)).gap) = [0, 1, 3, 4, 255] := by decide

theorem witness_FrameIsJudgedInItsFollowState :
    [FollowState.acquiring, .settling, .following, .slipped].map (fun st =>
      [seen3 255 .good, { seen3 255 .good with offset := -65 }, seen3 255 .void, seen3 255 .weak].map fun x =>
        ((followFrame 256 3 (follows st) x).fm.record 3).state) =
      [[.settling, .acquiring, .acquiring, .acquiring], [.settling, .acquiring, .acquiring, .acquiring],
       [.following, .slipped, .slipped, .following], [.slipped, .slipped, .slipped, .slipped]] := by decide

/-- A completed frame of head 3 and zone 5 that qualifies. -/
def done3 : CompletedFrame :=
  { head := 3, reduction := ⟨44, .normal, .good, 5, false, 9000⟩, amplitude := 0, follow := .following, missed := 1, slip := false }

theorem witness_QualifyingFramesAccumulate :
    (∀ st ∈ [SweepState.awaitHead, .measuring], ((sweeping st).sc.state = .awaitHead ∨ (sweeping st).sc.state = .measuring) ∧
      (sweeping st).sc.holder = none ∧ done3.head = (sweeping st).sc.currentHead ∧ done3.reduction.zoneUnknown = false ∧
      done3.reduction.zone = (sweeping st).sc.zone ∧ done3.reduction.grade = .good ∧ done3.follow = .following ∧
      ((sweeping st).sc.atSpeed = true → (sweeping st).tsm.spindle = .atSpeed) ∧ (sweeping st).sc.acc.n + 1 ≠ (sweeping st).sc.quota) ∧
    (let s := (sweeping .awaitHead).withSc { (sweeping .awaitHead).sc with quota := 1 }
     qualifies s.sc s.tsm.spindle done3.head done3.reduction done3.follow = true ∧ 0 + 1 = s.sc.quota ∧
       (s.sweepFrame done3).sc.state = .awaitHead ∧ (s.sweepFrame done3).sc.currentHead = 0) ∧
    ({ done3 with follow := .slipped } : CompletedFrame).follow ≠ .following ∧
    ({ done3 with head := 2 } : CompletedFrame).head ≠ (sweeping .measuring).sc.currentHead := by decide

theorem witness_CloseIsEvaluatedAndRecorded :
    (let a := gathered 0 [(-512, 0), (511, 0)]
     1 ≤ a.n ∧ a.sumP * a.sumP ≤ (a.n : Int) * a.sumP2) ∧
    (gathered 0 [(5, 0)]).sumW = 0 ∧
    (let a := gathered 0 [(-11, 1), (-10, 1)]
     0 < a.sumW ∧ a.least = some (-11) ∧ a.greatest = some (-10)) ∧
    (jogging (gathered 0 [(5, 0)])).kind = .jog ∧ SweepController.reset.kind = .centre ∧
    ((sweeping .awaitHead).tp.queue.length < 16 ∧ (sweeping .awaitHead).dd.holder = none) ∧
    16 ≤ (fullQueue (sweeping .awaitHead)).tp.queue.length ∧
    (((fullQueue (sweeping .awaitHead)).closeCell .noHead).sc.holder.map (fun r => (r.addr, r.outcome)) = some (0x02000CA0, .noHead) ∧
      ((sweeping .awaitHead).closeCell .noHead).sc.holder = none) := by decide

theorem witness_FigureIsScaledLimitedAndEncoded :
    ∀ v ∈ [(-512 : Int), 511], ∀ k ∈ [4, 9, 10, 14], ∀ w ∈ [8, 16], -512 ≤ v ∧ v ≤ 511 ∧
      ((field w .twos k).width = 8 ∨ (field w .twos k).width = 16) ∧ 4 ≤ (field w .twos k).scale ∧ (field w .twos k).scale ≤ 14 := by
  decide

/-- A queue of two records, the first in flight, with a write held for both and an entry pending. -/
def busyQueue : State :=
  ((ring 59).raise .cellClosed { place := some (2, 3), a := 1, b := 0 }).withTp { placed.tp with
    queue := [cell67, slotNine], inFlight := true
    upstream := [.write { newWrite (burst 0x02000860 [(1, 2)]) with todo := [], hold := 2 }] }

theorem witness_EveryStepKeepsTheQueueInvariant :
    QueueInv busyQueue ∧ ∃ t, step { busyQueue with pending := [.insertWriteOkay] } = .next t := by
  have entries : ∀ k, busyQueue.ra.entry k =
      if k = .cellClosed then some { repeats := 1, detail := { place := some (2, 3), a := 1, b := 0 } } else none := by
    intro k
    cases k <;> decide
  refine ⟨⟨by decide, by decide, by decide, by decide, by decide, ?_, by decide, ?_, ?_, ?_, ?_⟩, _, rfl⟩
  · intro k e he
    rw [entries] at he
    split at he
    · rename_i hk
      subst hk
      obtain rfl := Option.some.inj he
      decide
    · cases he
  · intro p hp
    obtain hp := List.mem_singleton.mp hp
    cases hp
    decide
  · intro p hp
    cases hp
  · refine ⟨fun h => absurd rfl h, ?_⟩
    rintro ⟨p, rest, h, hs⟩
    cases h
    cases hs
  · intro p rest h hs
    cases h
    cases hs

theorem witness_EveryStepKeepsTheWindowInvariant :
    WindowInv served ∧ ∃ t, step { served with pending := [.release] } = .next t := ⟨served_windows, _, rfl⟩

theorem witness_EveryStepKeepsTheImageInvariant :
    ImageInv served ∧ ∃ t, step { served with pending := [.release] } = .next t := ⟨served_image, _, rfl⟩

/-- A cell of section 5.11 with one frame gathered. -/
def measuring1 : State := (sweeping .measuring).withSc { (sweeping .measuring).sc with acc := gathered 0 [(41, 3)], passNumber := 1 }

theorem witness_EveryStepKeepsTheBenchInvariant :
    BenchInv measuring1 ∧ ∃ t, step { measuring1 with pending := [.tick] } = .next t :=
  ⟨⟨sweeping_geometry .measuring,
    ⟨by decide, by decide, by decide, by decide, fun a h => by (cases h), fun _ => rfl, by decide, fun w h => by (cases h)⟩,
    ⟨by decide, by decide, by decide, by decide, by decide, by decide, by decide, by decide, by decide⟩,
    ⟨by decide, by decide, by decide, by decide, by decide, by decide, by decide, by decide⟩⟩, _, rfl⟩

end Sys2Proof.Tests
end

section
/-! The track-offset arithmetic of section 1.4: the figures of R13, the region of R14, and the offset of R15 and R16. -/

namespace Sys2Proof.Proofs

open Sys2Proof.Machine

/-! ## The figures (R13) -/

/-- The floor subtraction of R13 is `max 0` of the integer difference, so each figure is the sum or difference R13 writes. -/
theorem burstSums_floored (f : FrameRecord) (floor : Nat) :
    (burstSums f floor).n = max 0 ((f.burstA : Int) - floor) - max 0 ((f.burstB : Int) - floor) ∧
    (burstSums f floor).q = max 0 ((f.burstC : Int) - floor) - max 0 ((f.burstD : Int) - floor) ∧
    ((burstSums f floor).sn : Int) = max 0 ((f.burstA : Int) - floor) + max 0 ((f.burstB : Int) - floor) ∧
    ((burstSums f floor).sq : Int) = max 0 ((f.burstC : Int) - floor) + max 0 ((f.burstD : Int) - floor) := by
  simp only [burstSums]
  omega

/-- |N| never exceeds Sn (R15). -/
theorem burstSums_n_natAbs_le (f : FrameRecord) (floor : Nat) :
    (burstSums f floor).n.natAbs ≤ (burstSums f floor).sn := by
  obtain ⟨hn, -, hsn, -⟩ := burstSums_floored f floor
  omega

/-- |Q| never exceeds Sq (R16). -/
theorem burstSums_q_natAbs_le (f : FrameRecord) (floor : Nat) :
    (burstSums f floor).q.natAbs ≤ (burstSums f floor).sq := by
  obtain ⟨-, hq, -, hsq⟩ := burstSums_floored f floor
  omega

/-- The exact numerator of R15 for bursts of 16 bits. -/
theorem burstSums_numerator_le (f : FrameRecord) (floor : Nat) (ha : f.burstA ≤ 65535) (hb : f.burstB ≤ 65535) :
    (256 * (burstSums f floor).n).natAbs ≤ 16776960 := by
  obtain ⟨hn, -, -, -⟩ := burstSums_floored f floor
  omega

/-! ## The region (R14) -/

theorem chooseRegion_of_sn_eq_zero {x : BurstSums} (hsn : x.sn = 0) : chooseRegion x = .quadrature :=
  if_pos hsn

theorem chooseRegion_of_sq_eq_zero {x : BurstSums} (hsq : x.sq = 0) (hsn : x.sn ≠ 0) : chooseRegion x = .normal :=
  (if_neg hsn).trans (if_pos hsq)

/-- With both sums nonzero the cross products decide. -/
theorem chooseRegion_eq_normal_iff {x : BurstSums} (hsn : x.sn ≠ 0) (hsq : x.sq ≠ 0) :
    chooseRegion x = .normal ↔ x.n.natAbs * x.sq ≤ x.q.natAbs * x.sn := by
  simp [chooseRegion, hsn, hsq]

/-! ## The offset (R15, R16) -/

/-- A ratio of magnitude at most 1, scaled by 256 and rounded, lies from -256 to 256. -/
theorem roundDiv_256_mul_range {v : Int} {s : Nat} (hv : v.natAbs ≤ s) (hs : s ≠ 0) :
    -256 ≤ roundDiv (256 * v) s ∧ roundDiv (256 * v) s ≤ 256 :=
  roundDiv_bounds (Nat.pos_of_ne_zero hs) (by omega) (by omega)

theorem rawOffset_of_normal {x : BurstSums} (h : chooseRegion x = .normal) :
    rawOffset x = roundDiv (256 * x.n) x.sn := by
  simp only [rawOffset, h]

theorem rawOffset_of_quadrature {x : BurstSums} (h : chooseRegion x = .quadrature) :
    rawOffset x = (if 0 ≤ x.n then 256 - roundDiv (256 * x.q) x.sq else -(256 - roundDiv (256 * x.q) x.sq)) := by
  simp only [rawOffset, h]

/-- R15: the offset in the NORMAL region and its range. -/
theorem rawOffset_normal_spec {x : BurstSums} (hn : x.n.natAbs ≤ x.sn) (h : chooseRegion x = .normal) (hsn : x.sn ≠ 0) :
    IsRound (rawOffset x) (256 * x.n) x.sn ∧ -256 ≤ rawOffset x ∧ rawOffset x ≤ 256 := by
  rw [rawOffset_of_normal h]
  exact ⟨roundDiv_isRound _ _ (Nat.pos_of_ne_zero hsn), roundDiv_256_mul_range hn hsn⟩

/-- R16: the offset in the QUADRATURE region and its range. The factor 256 - r lies from 0 to 512, and the sign of N is its
sign; with Sn = 0 the bound on |N| leaves N = 0, whose sign is +. -/
theorem rawOffset_quadrature_spec {x : BurstSums} (hn : x.n.natAbs ≤ x.sn) (hq : x.q.natAbs ≤ x.sq)
    (h : chooseRegion x = .quadrature) (hsq : x.sq ≠ 0) :
    ∃ r : Int, IsRound r (256 * x.q) x.sq ∧ -256 ≤ r ∧ r ≤ 256 ∧
      rawOffset x = (if 0 ≤ x.n then 256 - r else -(256 - r)) ∧ -512 ≤ rawOffset x ∧ rawOffset x ≤ 512 ∧
      (x.sn = 0 → x.n = 0 ∧ 0 ≤ rawOffset x) := by
  obtain ⟨hlow, hhigh⟩ := roundDiv_256_mul_range hq hsq
  have hp := rawOffset_of_quadrature h
  refine ⟨roundDiv (256 * x.q) x.sq, roundDiv_isRound _ _ (Nat.pos_of_ne_zero hsq), hlow, hhigh, hp, ?_⟩
  by_cases hsign : 0 ≤ x.n
  · rw [if_pos hsign] at hp
    omega
  · rw [if_neg hsign] at hp
    omega

/-- Settles O48: each clause is its rule's lemma, R15 and R16 under the bounds |N| ≤ Sn and |Q| ≤ Sq that the floored figures
keep. -/
theorem trackOffsetFollowsTheArithmetic : Obligations.TrackOffsetFollowsTheArithmetic := by
  intro f floor
  have hn := burstSums_n_natAbs_le f floor
  have hq := burstSums_q_natAbs_le f floor
  exact ⟨burstSums_floored f floor, burstSums_numerator_le f floor,
    fun hsn _ => chooseRegion_of_sn_eq_zero hsn, chooseRegion_of_sq_eq_zero, chooseRegion_eq_normal_iff,
    rawOffset_normal_spec hn, rawOffset_quadrature_spec hn hq⟩

end Sys2Proof.Proofs
end

section
/-! The entry checks of section 2.2: the head switch of R28, the seek of R29 and the wedge gap of R30, with the entry to
ACQUIRING of R31 that each of them makes. -/

namespace Sys2Proof.Proofs

open Sys2Proof.Machine

/-! ## The entry to ACQUIRING (R31) -/

/-- When a head enters ACQUIRING, the record of every other head is kept. -/
theorem setRecord_enterAcquiring_record (fm : FollowMonitor) (h x : Fin 16) :
    (fm.setRecord h (enterAcquiring (fm.record h))).record x = if x = h then enterAcquiring (fm.record x) else fm.record x := by
  rw [FollowMonitor.setRecord_record]
  by_cases hx : x = h
  · subst hx
    rfl
  · rw [if_neg hx, if_neg hx]

/-! ## The head switch (R28) -/

/-- Beside the records a head switch changes the active head and the last-frame record alone. -/
theorem headSwitch_frame (fm : FollowMonitor) (h : Fin 16) :
    { headSwitch fm h with records := fm.records } =
      { fm with active := some h, last := { head := some h, track := none, wedge := none } } := by
  cases hactive : fm.active <;> simp [headSwitch, hactive, FollowMonitor.setRecord]

/-- The monitor of R28 with its active head, if there is one, made DORMANT: the first thing a head switch does. -/
def parkActive (fm : FollowMonitor) : FollowMonitor :=
  match fm.active with
  | some a => fm.setRecord a { fm.record a with state := .dormant }
  | none => fm

theorem parkActive_record (fm : FollowMonitor) (x : Fin 16) :
    (parkActive fm).record x = if fm.active = some x then { fm.record x with state := .dormant } else fm.record x := by
  cases hactive : fm.active with
  | none => simp [parkActive, hactive]
  | some a =>
    simp only [parkActive, hactive, FollowMonitor.setRecord_record, Option.some.injEq]
    by_cases hxa : x = a
    · subst hxa
      rfl
    · rw [if_neg hxa, if_neg (Ne.symm hxa)]

/-- The records of a head switch are those of the parked monitor in which the new head enters ACQUIRING. -/
theorem headSwitch_record_eq_parkActive (fm : FollowMonitor) (h x : Fin 16) :
    (headSwitch fm h).record x =
      ((parkActive fm).setRecord h (enterAcquiring ((parkActive fm).record h))).record x := rfl

/-- A head switch makes the new head enter ACQUIRING and the head that was active DORMANT. The two are different heads, so the
new head enters with its own record. -/
theorem headSwitch_record {fm : FollowMonitor} {h : Fin 16} (hswitch : fm.active ≠ some h) (x : Fin 16) :
    (headSwitch fm h).record x = if x = h then enterAcquiring (fm.record x)
      else if fm.active = some x then { fm.record x with state := .dormant } else fm.record x := by
  rw [headSwitch_record_eq_parkActive, setRecord_enterAcquiring_record, parkActive_record]
  by_cases hxh : x = h
  · subst hxh
    rw [if_pos rfl, if_pos rfl, if_neg hswitch]
  · rw [if_neg hxh, if_neg hxh]

/-! ## The seek (R29) and the missed-wedge count (R30) -/

/-- A seek needs a valid track number and a last track that differs from it. -/
theorem isSeek_iff {fm : FollowMonitor} {x : FrameSeen} :
    isSeek fm x = true ↔ x.trackValid = true ∧ ∃ t, fm.last.track = some t ∧ t ≠ x.track := by
  cases htrack : fm.last.track <;> simp [isSeek, htrack]

/-- The missed-wedge count is the remainder R30 writes, and lies below wpr. -/
theorem wedgeGap_spec {wpr : Nat} (hwpr : 1 ≤ wpr) (wedge last : Nat) :
    (wedgeGap wpr wedge last : Int) = ((wedge : Int) - last - 1) % wpr ∧ wedgeGap wpr wedge last < wpr := by
  have hpos : (0 : Int) < wpr := by omega
  have hlow := Int.emod_nonneg ((wedge : Int) - last - 1) hpos.ne'
  have hhigh := Int.emod_lt_of_pos ((wedge : Int) - last - 1) hpos
  rw [wedgeGap]
  omega

/-! ## What the entry checks find (R27, step 1) -/

section

variable {wpr gapLimit : Nat} {fm : FollowMonitor} {x : FrameSeen}

theorem entryChecks_of_switch (hswitch : fm.active ≠ some x.head) :
    entryChecks wpr gapLimit fm x = { fm := headSwitch fm x.head, gap := 0, missed := 0 } :=
  if_pos hswitch

theorem entryChecks_of_seek (hactive : fm.active = some x.head) (hseek : isSeek fm x = true) :
    entryChecks wpr gapLimit fm x =
      { fm := fm.setRecord x.head (enterAcquiring (fm.record x.head)), gap := 0, missed := 0 } :=
  (if_neg (not_not.mpr hactive)).trans (if_pos hseek)

/-- The wedge-gap check is not made for a VOID frame, nor without a last wedge. -/
theorem entryChecks_of_no_gap_check (hactive : fm.active = some x.head) (hseek : ¬ isSeek fm x = true)
    (hnone : x.grade = .void ∨ fm.last.wedge = none) :
    entryChecks wpr gapLimit fm x = { fm := fm, gap := 0, missed := 0 } := by
  rw [entryChecks, if_neg (not_not.mpr hactive), if_neg hseek]
  rcases hnone with hvoid | hwedge
  · rw [if_pos hvoid]
  · rw [hwedge]
    exact ite_self _

/-- The wedge-gap check finds the missed-wedge count, and the gap limit decides what it does. -/
theorem entryChecks_of_gap_check {last : Nat} (hactive : fm.active = some x.head) (hseek : ¬ isSeek fm x = true)
    (hgrade : x.grade ≠ .void) (hwedge : fm.last.wedge = some last) :
    entryChecks wpr gapLimit fm x =
      if wedgeGap wpr x.wedge last ≤ gapLimit then
        { fm := fm, gap := wedgeGap wpr x.wedge last, missed := wedgeGap wpr x.wedge last }
      else
        { fm := fm.setRecord x.head (enterAcquiring (fm.record x.head)), gap := wedgeGap wpr x.wedge last, missed := 0 } := by
  rw [entryChecks, if_neg (not_not.mpr hactive), if_neg hseek, if_neg hgrade, hwedge]

end

/-- Settles O51: each check is its own lemma, in the order of R27; the wedge gap splits at the gap limit. -/
theorem entryChecksFindSwitchSeekAndGap : Obligations.EntryChecksFindSwitchSeekAndGap := by
  intro wpr gapLimit fm x hwpr
  simp only [← isSeek_iff]
  refine ⟨fun hswitch => ?_, fun hactive hseek => ?_, entryChecks_of_no_gap_check, fun last hactive hseek hgrade hwedge => ?_⟩
  · rw [entryChecks_of_switch hswitch]
    exact ⟨⟨rfl, rfl⟩, headSwitch_frame fm x.head, headSwitch_record hswitch⟩
  · rw [entryChecks_of_seek hactive hseek]
    exact ⟨⟨rfl, rfl⟩, FollowMonitor.setRecord_frame .., setRecord_enterAcquiring_record fm x.head⟩
  · have hgap := wedgeGap_spec hwpr x.wedge last
    rw [entryChecks_of_gap_check hactive hseek hgrade hwedge]
    split
    · next hwithin => exact ⟨hgap, fun _ => ⟨rfl, rfl⟩, fun habove => absurd hwithin (not_le.mpr habove)⟩
    · next habove =>
      exact ⟨hgap, fun hwithin => absurd hwithin habove,
        fun _ => ⟨rfl, FollowMonitor.setRecord_frame .., setRecord_enterAcquiring_record fm x.head⟩⟩

end Sys2Proof.Proofs
end

section
/-! What the operations of the blocks leave alone, and what a step can do: the two layers every invariant is proved over. -/

namespace Sys2Proof.Proofs

open Sys2Proof.Machine

/-! ## The entry of a result record (R67, R108, R110) -/

/-- The entry of a result record, block by block. -/
theorem enterResult_eq (s : State) (r : ResultRecord) :
    s.enterResult r = (((s.withTp (enqueue { addr := r.addr
                                             words := resultWords r (s.table.cell (cellIndex r.head r.zone)).unread
                                             kind := .result (cellIndex r.head r.zone) } s.tp)).withTable
      (s.table.setUnread (cellIndex r.head r.zone) true)).withSc { s.sc with holder := none }).withRa
      ((if (s.table.cell (cellIndex r.head r.zone)).unread then
          s.ra.raise .resultOverrun { place := some (r.head, r.zone), a := 0, b := 0 } else s.ra).raise .cellClosed
        { place := some (r.head, r.zone), a := r.outcome.code, b := 0 }) := by
  unfold State.enterResult
  dsimp only
  split <;> rfl

/-! ## What the Sweep Controller's operations are made of (chapters 5 and 6) -/

/-- A property that the pieces of a pass keep: the sweep record beside its holder, and the reports. -/
structure PassSteps (P : State → Prop) : Prop where
  sc : ∀ s x, P s → ∀ (_ : x.holder = s.sc.holder := by rfl), P (s.withSc x)
  raise : ∀ s k d, P s → P (s.raise k d)

namespace PassSteps

variable {P : State → Prop} (h : PassSteps P) {s : State}
include h

theorem enterAwaitHead (hs : P s) : P s.enterAwaitHead := h.raise _ _ _ (h.sc s _ hs)

theorem startPass (hs : P s) : P s.startPass := h.enterAwaitHead (h.sc s _ hs)

theorem arm (hs : P s) : P s.arm := by
  have armed := h.sc s { s.sc with state := .armed } hs
  unfold State.arm
  split
  · exact h.startPass armed
  · exact armed
  · exact armed

theorem raiseSweepDone (hs : P s) (r : DoneReason) : P (s.raiseSweepDone r) := h.raise _ _ _ hs

theorem advance (hs : P s) : P s.advance := by
  unfold State.advance
  split
  · have ended := h.sc s { s.sc with passesCompleted := saturate Config.countLimit s.sc.passesCompleted 1 } hs
    dsimp only
    split
    · exact h.raiseSweepDone (h.sc _ _ ended) _
    · exact h.arm (h.sc _ _ ended)
  · exact h.enterAwaitHead (h.sc s _ hs)

theorem sweepTimer (hs : P s) : P s.sweepTimer := by
  unfold State.sweepTimer
  split
  · exact h.startPass hs
  · exact hs

theorem abortSweep (hs : P s) (reason : AbortReason) : P (s.abortSweep reason) := by
  unfold State.abortSweep
  split
  · exact hs
  · exact h.raise _ _ _ (h.sc s _ hs)

theorem haltSweep (hs : P s) : P s.haltSweep := by
  unfold State.haltSweep
  split
  · exact hs
  · exact h.raiseSweepDone (h.sc s _ hs) _

end PassSteps

/-- A property that every operation of the Sweep Controller keeps: a cell closes while the result holder is empty (R84, R89). -/
structure SweepSteps (P : State → Prop) : Prop extends PassSteps P where
  close : ∀ s cause, s.sc.holder = none → P s → P (s.closeCell cause)

/-- A property that the cell, the holder and the entry of the result record keep is kept by a close (R90). -/
theorem sweepSteps_of_pieces {P : State → Prop} (sc : ∀ s x, P s → P (s.withSc x)) (table : ∀ s x, P s → P (s.withTable x))
    (raise : ∀ s k d, P s → P (s.raise k d)) (enter : ∀ s r, P s → s.resultCanEnter = true → P (s.enterResult r)) :
    SweepSteps P where
  sc s x hs _ := sc s x hs
  raise := raise
  close s cause _ hs := by
    have passSteps : PassSteps P := ⟨fun s x hs _ => sc s x hs, raise⟩
    have tryEnter (t : State) (ht : P t) : P t.tryEnterResult := by
      unfold State.tryEnterResult
      split
      · split
        · next hcan => exact enter _ _ ht hcan
        · exact ht
      · exact ht
    exact tryEnter _ (passSteps.advance (sc _ _ (table _ _ hs)))

/-- A frame qualifies while the result holder is empty (R84). -/
theorem holder_of_qualifies {sc : SweepController} {spindle : SpindleState} {head : Fin 16} {r : Reduction} {follow : FollowState}
    (h : qualifies sc spindle head r follow = true) : sc.holder = none := by
  simp only [qualifies, sweepOpen, Bool.and_eq_true, Option.isNone_iff_eq_none] at h
  exact h.1.1.1.1.1.1.2

namespace SweepSteps

variable {P : State → Prop} (h : SweepSteps P) {s : State}
include h

theorem measureFrame (hs : P s) (hn : s.sc.holder = none) (f : CompletedFrame) : P (s.measureFrame f) := by
  have measured := h.sc s { s.sc with
    acc := accumulate s.sc.acc f.reduction.offset (frameWeight f.amplitude s.sc.jogThreshold) } hs
  unfold State.measureFrame
  dsimp only
  split
  · exact h.close (s.withSc _) _ hn measured
  · exact measured

theorem sweepFrame (hs : P s) (f : CompletedFrame) : P (s.sweepFrame f) := by
  have gathered := h.sc s { s.sc with acc := addMissed s.sc.acc f.missed f.slip } hs
  have hempty (hq : qualifies s.sc s.tsm.spindle f.head f.reduction f.follow = true) : s.sc.holder = none :=
    holder_of_qualifies hq
  unfold State.sweepFrame
  dsimp only
  split
  · exact hs
  · exact hs
  · split
    · next hq =>
      have opened := h.sc s { s.sc with state := .measuring, acc := addMissed Accumulator.clear f.missed f.slip } hs
      exact h.measureFrame opened (hempty hq) f
    · exact hs
  · by_cases hhead : f.head = s.sc.currentHead
    · rw [if_pos hhead]
      split
      · next hq => exact h.measureFrame gathered (hempty hq) f
      · exact gathered
    · rw [if_neg hhead]
      split
      · next hq => exact h.measureFrame hs (hempty hq) f
      · exact hs

theorem countRevolution (hs : P s) (hn : s.sc.holder = none) (cause : CloseCause) :
    P (let counted := s.withSc { s.sc with revolutions := saturate 255 s.sc.revolutions 1 }
      if s.sc.deadline ≤ counted.sc.revolutions then counted.closeCell cause else counted) := by
  have counted := h.sc s { s.sc with revolutions := saturate 255 s.sc.revolutions 1 } hs
  dsimp only
  split
  · exact h.close (s.withSc _) cause hn counted
  · exact counted

theorem sweepIndex (hs : P s) : P s.sweepIndex := by
  unfold State.sweepIndex
  split
  · exact hs
  · split
    · exact h.startPass hs
    · exact hs
  · split
    · next hn => exact h.countRevolution hs (Option.isNone_iff_eq_none.mp hn) .noHead
    · exact hs
  · split
    · next hn => exact h.countRevolution hs (Option.isNone_iff_eq_none.mp hn) .short
    · exact hs

end SweepSteps

/-! ## What the operations of the clocks are made of (chapter 3) -/

/-- A property that the pieces of every operation of the Timebase and Spindle Monitor keep. -/
structure ClockSteps (P : State → Prop) : Prop extends SweepSteps P where
  tsm : ∀ s x, P s → P (s.withTsm x)

namespace ClockSteps

variable {P : State → Prop} (h : ClockSteps P) {s : State}
include h

theorem setSpindle (hs : P s) (new : SpindleState) (period : Nat) : P (s.setSpindle new period) := by
  have set := h.tsm s { s.tsm with spindle := new } hs
  unfold State.setSpindle
  dsimp only
  split
  · exact set
  · split
    · exact set
    · exact h.raise _ _ _ set
    · exact h.raise _ _ _ set
    · exact h.raise _ _ _ set

theorem spindleCheck (hs : P s) : P s.spindleCheck := by
  unfold State.spindleCheck
  split
  · exact h.setSpindle (h.tsm _ _ hs) _ _
  · exact h.setSpindle hs _ _

theorem timeoutExpiry (hs : P s) : P s.timeoutExpiry := by
  have stopped := h.setSpindle (h.tsm s { s.tsm with lastIndex := false } hs) .stopped (s.tsm.lastPeriod.getD 0)
  unfold State.timeoutExpiry
  dsimp only
  split
  · exact stopped
  · exact h.abortSweep stopped _

theorem settleTimeout (hs : P s) : P s.settleTimeout := by
  unfold State.settleTimeout
  split
  · exact h.timeoutExpiry hs
  · exact hs

theorem indexEdge (hs : P s) : P s.indexEdge := by
  have delivered := h.settleTimeout (h.sweepIndex hs)
  unfold State.indexEdge State.recordIndex
  dsimp only
  split
  · exact h.tsm _ _ (h.spindleCheck delivered)
  · exact h.tsm _ _ delivered

theorem settleTimer (hs : P s) : P s.settleTimer := by
  have delivered := h.sweepTimer hs
  unfold State.settleTimer
  split
  · unfold State.timerExpired
    dsimp only
    split
    · exact h.tsm _ _ delivered
    · exact h.tsm _ _ delivered
    · exact delivered
  · exact hs

theorem settleExpiries (hs : P s) : P s.settleExpiries := h.settleTimeout (h.settleTimer hs)

theorem endTick (hs : P s) : P s.endTick := h.tsm _ _ (h.settleExpiries hs)

theorem clockPeriod (hs : P s) : P s.clockPeriod := by
  unfold State.clockPeriod
  split
  · exact h.tsm _ _ hs
  · exact h.endTick hs

theorem loseReference (hs : P s) : P s.loseReference := h.abortSweep (h.raise _ _ _ (h.tsm _ _ hs)) _

theorem srefEdge (hs : P s) : P s.srefEdge := by
  unfold State.srefEdge
  split
  · exact h.clockPeriod (h.tsm _ _ hs)
  · exact hs
  · exact hs

theorem ioscPeriod (hs : P s) : P s.ioscPeriod := by
  unfold State.ioscPeriod
  split
  · split
    · exact h.tsm _ _ hs
    · exact h.loseReference hs
  · exact h.clockPeriod hs
  · exact h.clockPeriod hs

end ClockSteps

/-! ## What the taking of a frame word is made of (chapters 1 and 2) -/

/-- A property that the pieces of every operation on a wedge frame keep. -/
structure FrameSteps (P : State → Prop) : Prop extends SweepSteps P where
  fr : ∀ s x, P s → P (s.withFr x)
  fm : ∀ s x, P s → P (s.withFm x)

namespace FrameSteps

variable {P : State → Prop} (h : FrameSteps P) {s : State}
include h

theorem countTorn (hs : P s) : P s.countTorn := h.raise _ _ _ (h.fr _ _ hs)

theorem countBadWedge (hs : P s) : P s.countBadWedge := h.raise _ _ _ (h.fr _ _ hs)

theorem tearFrame (hs : P s) : P s.tearFrame := h.countTorn (h.fr _ _ hs)

theorem abandonFrame (hs : P s) : P s.abandonFrame := by
  unfold State.abandonFrame
  split
  · exact h.tearFrame hs
  · exact hs

theorem followStep (hs : P s) (x : FrameSeen) : P (s.followStep x).1 := by
  unfold State.followStep
  dsimp only
  split
  · exact h.raise _ _ _ (h.fm _ _ hs)
  · exact h.fm _ _ hs

theorem completeSeen (hs : P s) (f : FrameRecord) (r : Reduction) : P (s.completeSeen f r).1 := by
  unfold State.completeSeen
  dsimp only
  split
  · exact h.countBadWedge (h.sweepFrame (h.followStep hs _) _)
  · exact h.sweepFrame (h.followStep hs _) _

theorem completeFrame (hs : P s) (f : FrameRecord) : P (s.completeFrame f).1 := by
  unfold State.completeFrame
  dsimp only
  split
  · exact h.fr _ _ hs
  · exact h.fr _ _ (h.completeSeen hs f _)

theorem takeFrameWord (hs : P s) (w : WordWrite) (run : Option SlotRun) (f : FrameRecord) :
    P (takeFrameWord s w run f).state := by
  unfold Machine.takeFrameWord
  split
  · exact h.fr _ _ hs
  · exact h.fr _ _ hs
  · exact h.completeFrame hs f
  · exact h.fr _ _ hs

theorem takeStray (hs : P s) (w : WordWrite) (run : SlotRun) : P (takeStray s w run).state := by
  unfold Machine.takeStray
  split
  · exact hs
  · exact h.countTorn hs

theorem takeCapture (hs : P s) (w : WordWrite) (prior : Option SlotRun) (slot n : Nat) :
    P (takeCapture s w prior slot n).state := by
  unfold Machine.takeCapture
  dsimp only
  split
  · split
    · exact h.fr _ _ (h.tearFrame hs)
    · exact h.fr _ _ hs
  · split
    · exact h.takeStray hs w _
    · split
      · split
        · exact h.takeFrameWord hs w _ _
        · exact h.tearFrame hs
      · exact h.takeStray hs w _

end FrameSteps

/-! ## What the owners of the directives do (R148) -/

/-- A property that every taken directive keeps: the pieces shared by several owners, and each directive of the window map, of the
report mask and of the image by itself. -/
structure OwnerSteps (P : State → Prop) : Prop extends FrameSteps P where
  table : ∀ s x, P s → P (s.withTable x)
  tsm : ∀ s x, P s → P (s.withTsm x)
  clear : ∀ s ks, P s → P (s.clearReports ks)
  windows : ∀ o s, P s → (judgeWindows o s).code.isTaken = true → P (applyWindows o s)
  reports : ∀ m s, P s → P (applyReports m s)
  setImage : ∀ o s, P s → (judgeImage o s).code.isTaken = true → P (applyImage o s)
  mapField : ∀ o s, P s → (judgeField o s).code.isTaken = true → P (applyField o s)
  clearMap : ∀ s, P s → (judgeClearMap s).code.isTaken = true → P (applyClearMap s)
  publish : ∀ s, P s → (judgePublish s).code.isTaken = true → P (applyPublish s)
  release : ∀ s, P s → (judgeRelease s).code.isTaken = true → P (applyRelease s)

/-- A directive handed to its owner keeps what its effect keeps when it is taken (R148). -/
theorem ownDirective_of_taken {P : State → Prop} {d : Directive} {s : State} (hs : P s)
    (h : (judgeDirective d s).code.isTaken = true → P (applyDirective d s)) : P (ownDirective d s) := by
  cases hj : (judgeDirective d s).code.isTaken
  · rwa [ownDirective_refused hj]
  · rw [ownDirective_taken hj]
    exact h hj

theorem OwnerSteps.own {P : State → Prop} (h : OwnerSteps P) (d : Directive) {s : State} (hs : P s) :
    P (ownDirective d s) := by
  refine ownDirective_of_taken hs fun taken => ?_
  cases d
  case setWindows o => exact h.windows o s hs taken
  case setGeometry o => exact h.fm _ _ (h.abandonFrame (h.fr _ _ hs))
  case setZones o => exact h.abandonFrame (h.fr _ _ hs)
  case setHead o => exact h.fm _ _ hs
  case setFollow o => exact h.fm _ _ hs
  case setTimebase o => exact h.clear _ _ (h.tsm _ _ hs)
  case setIndex o => exact h.clear _ _ (h.tsm _ _ hs)
  case setTimer o => exact h.tsm _ _ hs
  case setReports m => exact h.reports m s hs
  case sweep o => exact h.arm (h.clear _ _ (h.sc s _ hs))
  case halt => exact h.haltSweep hs
  case clearHead x => exact h.table _ _ (h.fm _ _ hs)
  case clearHistory x => exact h.fm _ _ hs
  case setImage o => exact h.setImage o s hs taken
  case mapField o => exact h.mapField o s hs taken
  case clearMap => exact h.clearMap s hs taken
  case publish => exact h.publish s hs taken
  case release => exact h.release s hs taken

/-! ## What the taking of a word is made of (R156, R158) -/

/-- A property that every word of a write keeps, because the block that watches its window keeps it. -/
structure WordSteps (P : State → Prop) : Prop where
  capture : ∀ s w run slot n, P s → P (takeCapture s w run slot n).state
  dd : ∀ s x, P s → P (s.withDd x)
  own : ∀ d s, P s → P (ownDirective d s)
  outcome : ∀ s r, P s → 0 < freeEntries s.tp → P (s.enterOutcome r)
  image : ∀ s o data enables, P s → P (s.withIp (s.ip.write o data enables))

namespace WordSteps

variable {P : State → Prop} (h : WordSteps P) {s : State}
include h

theorem takeDirective (hs : P s) : P s.takeDirective := by
  have judged : P (judgeLatch s).2 := by
    unfold judgeLatch
    split
    · exact hs
    · split
      · exact hs
      · exact h.own _ _ hs
  exact h.dd (judgeLatch s).2 _ judged

theorem tryEnterOutcome (hs : P s) : P s.tryEnterOutcome := by
  unfold State.tryEnterOutcome
  split
  · split
    · next hfree => exact h.outcome _ _ hs hfree
    · exact hs
  · exact hs

theorem takeWord (hs : P s) (w : WordWrite) (run : Option SlotRun) : P (takeWord s w run).state := by
  unfold Machine.takeWord
  split
  · exact hs
  · split
    · unfold takeMailbox
      split
      · exact h.dd s _ hs
      · split
        · simp only [takeGo]
          exact h.tryEnterOutcome (h.takeDirective hs)
        · exact hs
    · exact h.capture s _ _ _ _ hs
    · exact h.image s _ _ _ hs
    · exact hs

theorem takeWords (ws : List WordWrite) (p : WriteProgress) (hs : P s) : P (takeWords ws p s).2 :=
  takeWords_keeps P (fun _ w run hs => h.takeWord hs w run) ws p s hs

end WordSteps

/-! ## What the upstream port does (R156, R163 to R165) -/

/-- A property that looks neither at what waits at the ports nor at what has passed them. -/
structure PortBlind (P : State → Prop) : Prop where
  port : ∀ s upstream outstanding, P s →
    P (s.withTp { s.tp with upstream := upstream, outstanding := outstanding })
  down : ∀ s e, P s → P (s.sendDown e)
  up : ∀ s e, P s → P (s.replyUp e)

namespace PortBlind

variable {P : State → Prop} (h : PortBlind P) {s : State}
include h

theorem advanceRead (hs : P s) (b : ReadBurst) (rest : List Upstream) : P (advanceRead b rest s) := by
  unfold Machine.advanceRead
  split
  · exact h.port s _ s.tp.outstanding hs
  · exact h.down _ _ (h.port s _ _ hs)

theorem settleWrite (hs : P s) (p : WriteProgress) (rest : List Upstream) : P (settleWrite p rest s) := by
  unfold Machine.settleWrite
  split
  · exact h.down _ _ (h.port s _ _ hs)
  · exact h.port s _ s.tp.outstanding hs

theorem advanceWrite (hw : WordSteps P) (hs : P s) (p : WriteProgress) (rest : List Upstream) :
    P (advanceWrite p rest s) :=
  h.settleWrite (hw.takeWords _ _ (h.port s _ s.tp.outstanding hs)) _ _

theorem serveFront (hw : WordSteps P) (hs : P s) : P s.serveFront := by
  unfold State.serveFront
  split
  · exact hs
  · exact h.advanceRead hs _ _
  · split
    · exact hs
    · exact h.advanceWrite hw hs _ _

theorem arrive (hw : WordSteps P) (hs : P s) (x : Upstream) : P (s.arrive x) := by
  unfold State.arrive
  split
  · exact h.serveFront hw (h.port s _ s.tp.outstanding hs)
  · exact h.port s _ s.tp.outstanding hs

theorem endStall (hw : WordSteps P) (hs : P s) (x : Stall) : P (s.endStall x) := by
  unfold State.endStall
  split
  · split
    · exact h.serveFront hw (h.port s _ s.tp.outstanding hs)
    · exact hs
  · exact hs
  · exact hs

theorem dropOutstanding (hs : P s) (k : Nat) : P (s.dropOutstanding k) := h.port s s.tp.upstream _ hs

theorem answerWrite (hs : P s) (k : Nat) (r : Response) : P (s.answerWrite k r) := by
  unfold State.answerWrite
  split
  · exact h.up _ _ (h.dropOutstanding hs k)
  · exact hs
  · exact hs

theorem answerRead (htable : ∀ s x, P s → P (s.withTable x)) (hconsume : ∀ s l, P s → P (s.withRa (s.ra.consume l)))
    (hs : P s) (k : Nat) (r : Response) (data : List (BitVec 64)) : P (s.answerRead k r data) := by
  have dropped := h.dropOutstanding hs k
  unfold State.answerRead
  split
  · split
    · exact h.up _ _ (hconsume (State.withTable _ _) _ (htable _ _ dropped))
    · exact h.up _ _ dropped
  · exact hs
  · exact hs

end PortBlind

/-! ## What a step can do -/

/-- A transaction as it arrives: no word of a write is taken. -/
inductive Arrives : Upstream → Prop
  | write (w : WriteBurst) : Arrives (.write (newWrite w))
  | read (r : ReadBurst) : Arrives (.read r)

/-- What the Timebase and Spindle Monitor can do in one step (chapter 3). -/
inductive Ticks (s : State) : State → Prop
  | tick : Ticks s (s.withTsm { s.tsm with lossCount := 0 }).endTick
  | index : Ticks s s.indexEdge
  | timeout : Ticks s s.settleTimeout
  | timer : Ticks s s.settleTimer
  | loss (ext : s.tsm.timebase = .external) : Ticks s s.settleExpiries.loseReference
  | sref : Ticks s s.srefEdge
  | idle : Ticks s s.settleExpiries.ioscPeriod

theorem ClockSteps.ticks {P : State → Prop} (h : ClockSteps P) {s t : State} (hs : P s) (ht : Ticks s t) : P t := by
  cases ht with
  | tick => exact h.endTick (h.tsm _ _ hs)
  | index => exact h.indexEdge hs
  | timeout => exact h.settleTimeout hs
  | timer => exact h.settleTimer hs
  | loss ext => exact h.loseReference (h.settleExpiries hs)
  | sref => exact h.srefEdge hs
  | idle => exact h.ioscPeriod (h.settleExpiries hs)

/-- What the part can do in one step while RESET is high. -/
inductive Acts (s : State) : State → Prop
  | nothing : Acts s s
  | arrive (x : Upstream) (hx : Arrives x) : Acts s (s.arrive x)
  | answerRead (k : Nat) (r : Response) (data : List (BitVec 64)) : Acts s (s.answerRead k r data)
  | answerWrite (k : Nat) (r : Response) : Acts s (s.answerWrite k r)
  | serveFront : Acts s s.serveFront
  | outcomeEntry (r : OutcomeRecord) (held : s.dd.holder = some r) (room : 0 < freeEntries s.tp) :
      Acts s ((s.enterOutcome r).endStall .outcome)
  | resultEntry (r : ResultRecord) (held : s.sc.holder = some r) (room : s.resultCanEnter = true) :
      Acts s ((s.enterResult r).endStall .result)
  | grant : Acts s s.tryGrant
  | issue : Acts s s.issueInsert
  | okay : Acts s s.insertOkay
  | error : Acts s s.insertError
  | clock {t : State} (h : Ticks s t) : Acts s t

/-- What one step can do to the state, its command taken from the queue. -/
inductive Happens (s : State) : State → Prop
  | nothing : Happens s s
  | reset (ports : Ports) : Happens s { State.reset with ports := ports, pending := s.pending }
  | release (strap1 strap0 : Bool) (low : s.resetLow = true) : Happens s { s with
      resetLow := false, tp := { s.tp with controlBase := some (controlBaseOf strap1 strap0) } }
  | acts {t : State} (high : s.resetLow = false) (act : Acts s t) : Happens s t

/-- A command that acts while RESET is high does what its action does, or nothing. -/
theorem Happens.whenRunning {s : State} {f : State → State} (h : Acts s (f s)) :
    Happens s (whenRunning s f) := by
  cases hr : s.resetLow
  · rw [whenRunning_high s f hr]
    exact .acts hr h
  · rw [whenRunning_low s f hr]
    exact .nothing

theorem Acts.writeDirective (s : State) (d : Directive) : Acts s (s.writeDirective d) := by
  unfold State.writeDirective
  split
  · exact .arrive _ (.write _)
  · exact .nothing

theorem Acts.writeGo (s : State) (go : Word) : Acts s (s.writeGo go) := by
  unfold State.writeGo
  split
  · exact .arrive _ (.write _)
  · exact .nothing

theorem Acts.busRead (s : State) (b : BusRead) : Acts s (s.busRead b) := by
  cases b with
  | arrive r => exact .arrive _ (.read r)
  | answer k r data => exact .answerRead k r data

theorem Acts.busWrite (s : State) (b : BusWrite) : Acts s (s.busWrite b) := by
  cases b with
  | arrive w => exact .arrive _ (.write w)
  | answer k r => exact .answerWrite k r

/-- Every command answers a next state, and does one of the things of `Happens`. -/
theorem exec_happens (c : Instr) (s : State) : ∃ t, exec c s = .next t ∧ Happens s t := by
  cases c
  case resetAssert => exact ⟨_, rfl, .reset _⟩
  case resetRelease strap1 strap0 =>
    refine ⟨_, rfl, ?_⟩
    split
    · next low => exact .release strap1 strap0 low
    · exact .nothing
  case captureWrite w => exact ⟨_, rfl, .whenRunning (.arrive _ (.write w))⟩
  case mailboxWrite w => exact ⟨_, rfl, .whenRunning (.arrive _ (.write w))⟩
  case imageWrite w => exact ⟨_, rfl, .whenRunning (.arrive _ (.write w))⟩
  case upstreamWrite b => exact ⟨_, rfl, .whenRunning (.busWrite s b)⟩
  case resultReadNotice b => exact ⟨_, rfl, .whenRunning (.busRead s b)⟩
  case consumptionNotice b => exact ⟨_, rfl, .whenRunning (.busRead s b)⟩
  case imageRead b => exact ⟨_, rfl, .whenRunning (.busRead s b)⟩
  case unknownKind go => exact ⟨_, rfl, .whenRunning (.writeGo s go)⟩
  case heldTransactionRelease => exact ⟨_, rfl, .whenRunning .serveFront⟩
  case outcomeRecordEntry =>
    refine ⟨_, rfl, .whenRunning ?_⟩
    split
    · next r held =>
      split
      · next room => exact .outcomeEntry r held room
      · exact .nothing
    · exact .nothing
  case resultRecordEntry =>
    refine ⟨_, rfl, .whenRunning ?_⟩
    split
    · next r held =>
      split
      · next room => exact .resultEntry r held room
      · exact .nothing
    · exact .nothing
  case reportGrant => exact ⟨_, rfl, .whenRunning .grant⟩
  case insertIssue => exact ⟨_, rfl, .whenRunning .issue⟩
  case insertWriteOkay => exact ⟨_, rfl, .whenRunning .okay⟩
  case insertWriteError => exact ⟨_, rfl, .whenRunning .error⟩
  case tick => exact ⟨_, rfl, .whenRunning (.clock .tick)⟩
  case indexEvent e =>
    refine ⟨_, rfl, .whenRunning ?_⟩
    split
    · exact .clock .index
    · exact .nothing
  case indexTimeout => exact ⟨_, rfl, .whenRunning (.clock .timeout)⟩
  case timerExpiry => exact ⟨_, rfl, .whenRunning (.clock .timer)⟩
  case srefLoss =>
    refine ⟨_, rfl, .whenRunning ?_⟩
    split
    · next ext => exact .clock (.loss ext)
    · exact .nothing
  case srefRisingEdge => exact ⟨_, rfl, .whenRunning (.clock .sref)⟩
  all_goals exact ⟨_, rfl, .whenRunning (.writeDirective s _)⟩

/-- What a step leaves is what happens to the state, its command taken from the queue. -/
theorem step_happens {s t : State} (h : step s = .next t) : ∃ rest, Happens { s with pending := rest } t := by
  unfold step at h
  split at h
  · next hp =>
    obtain rfl := Host.Outcome.next.inj h
    refine ⟨s.pending, ?_⟩
    exact .whenRunning (f := fun s => s.settleExpiries.ioscPeriod) (.clock .idle)
  · next c rest hp =>
    obtain ⟨t', ht, happens⟩ := exec_happens c { s with pending := rest }
    rw [ht] at h
    obtain rfl := Host.Outcome.next.inj h
    exact ⟨rest, happens⟩

/-! ## Properties that look at neither the queue nor the reports -/

/-- A property that looks at none of the insertion queue, the upstream port, the reports, the mailbox latch, the cells, the result
holder and the record of the ports. -/
structure QueueBlind (P : State → Prop) : Prop where
  transfer : ∀ s queue inFlight upstream outstanding, P s → P (s.withTp { s.tp with
    queue := queue, inFlight := inFlight, upstream := upstream, outstanding := outstanding })
  ports : ∀ s x, P s → P (s.withPorts x)
  ra : ∀ s x, P s → P (s.withRa x)
  dd : ∀ s x, P s → P (s.withDd x)
  table : ∀ s x, P s → P (s.withTable x)
  holder : ∀ s x, P s → P (s.withSc { s.sc with holder := x })
  counts : ∀ s, P s → P (s.withFr { s.fr with torn := 0, badWedge := 0 })

namespace QueueBlind

variable {P : State → Prop} (h : QueueBlind P) {s : State}
include h

theorem portBlind : PortBlind P where
  port _ _ _ hs := h.transfer _ _ _ _ _ hs
  down _ _ hs := h.ports _ _ hs
  up _ _ hs := h.ports _ _ hs

theorem enterResult (hs : P s) (r : ResultRecord) : P (s.enterResult r) := by
  rw [enterResult_eq]
  exact h.ra _ _ (h.holder _ none (h.table _ _ (h.transfer s _ _ _ _ hs)))

theorem enterOutcome (hs : P s) (r : OutcomeRecord) : P (s.enterOutcome r) := h.dd _ _ (h.transfer s _ _ _ _ hs)

theorem restartCounts (hs : P s) (k : ReportKind) : P (s.restartCounts k) := by
  unfold State.restartCounts
  split
  · exact h.counts s hs
  · exact h.ra s _ hs
  all_goals exact hs

theorem tryGrant (hs : P s) : P s.tryGrant := by
  unfold State.tryGrant
  split
  · split
    · next k _ =>
      split
      · exact h.ra _ _ (h.transfer (s.restartCounts k) _ _ _ _ (h.restartCounts hs k))
      · exact hs
    · exact hs
  · exact hs

theorem issueInsert (hs : P s) : P s.issueInsert := by
  unfold State.issueInsert
  split
  · exact h.ports _ _ (h.transfer s _ _ _ _ hs)
  · exact hs
  · exact hs

theorem insertOkay (hs : P s) : P s.insertOkay := by
  unfold State.insertOkay
  split
  · exact h.ra _ _ (h.transfer s _ _ _ _ hs)
  · exact hs

theorem dropRecord (hs : P s) (e : QueueEntry) : P (s.dropRecord e) := by
  unfold State.dropRecord
  split
  · split
    · exact hs
    · exact h.table _ _ hs
  · exact h.ra _ _ hs
  · exact hs

theorem insertError (hs : P s) : P s.insertError := by
  unfold State.insertError
  split
  · exact h.ra _ _ (h.dropRecord (h.transfer s _ _ _ _ hs) _)
  · exact hs

/-- Such a property is kept by the Sweep Controller, if it does not look at the sweep record either. -/
theorem sweepSteps (sc : ∀ s x, P s → P (s.withSc x)) : SweepSteps P :=
  sweepSteps_of_pieces sc h.table (fun s _ _ hs => h.ra s _ hs) fun _ r hs _ => h.enterResult hs r

/-- Such a property is kept by every action, if the taking of a word and the clocks keep it. -/
theorem acts (word : WordSteps P) (clocks : ∀ s t, P s → Ticks s t → P t) {t : State} (hs : P s) (ht : Acts s t) : P t := by
  have port := h.portBlind
  cases ht with
  | nothing => exact hs
  | arrive x hx => exact port.arrive word hs x
  | answerRead k r data => exact port.answerRead h.table (fun s _ hs => h.ra s _ hs) hs k r data
  | answerWrite k r => exact port.answerWrite hs k r
  | serveFront => exact port.serveFront word hs
  | outcomeEntry r held room => exact port.endStall word (h.enterOutcome hs r) _
  | resultEntry r held room => exact port.endStall word (h.enterResult hs r) _
  | grant => exact h.tryGrant hs
  | issue => exact h.issueInsert hs
  | okay => exact h.insertOkay hs
  | error => exact h.insertError hs
  | clock ticks => exact clocks _ _ hs ticks

end QueueBlind

/-- A property that does not look at the queue of commands is kept by every step, if it holds after device reset, survives the
release of RESET, and every action keeps it. -/
theorem step_keeps {P : State → Prop} (hpending : ∀ s l, P s → P { s with pending := l })
    (hreset : ∀ ports pending, P { State.reset with ports := ports, pending := pending })
    (hrelease : ∀ s strap1 strap0, P s → s.resetLow = true → P { s with
      resetLow := false, tp := { s.tp with controlBase := some (controlBaseOf strap1 strap0) } })
    (hacts : ∀ s t, P s → s.resetLow = false → Acts s t → P t)
    {s t : State} (hs : P s) (h : step s = .next t) : P t := by
  obtain ⟨rest, happens⟩ := step_happens h
  have hs' := hpending s rest hs
  cases happens with
  | nothing => exact hs'
  | reset ports => exact hreset ports _
  | release strap1 strap0 low => exact hrelease _ strap1 strap0 hs' low
  | acts high act => exact hacts _ t hs' high act

end Sys2Proof.Proofs
end

section
/-! The window map and the image directives: the verdicts of SET WINDOWS, SET IMAGE and MAP FIELD, and the invariant of the windows
(R113, R115, R157 to R160). -/

namespace Sys2Proof.Proofs

open Sys2Proof.Machine

/-! ## Ranges (R115, R117, R159) -/

theorem rangesOverlap_iff (a la b lb : Nat) : rangesOverlap a la b lb = true ↔ a < b + lb ∧ b < a + la := by
  simp [rangesOverlap]

/-- Ranges that do not overlap are apart. -/
theorem apart_of_not_overlap {a la b lb : Nat} (h : ¬ rangesOverlap a la b lb = true) : Apart a la b lb := by
  rw [rangesOverlap_iff] at h
  simp only [Apart]
  omega

theorem apart_symm {a n a' n' : Nat} (h : Apart a n a' n') : Apart a' n' a n := Or.symm h

theorem overlapsControl_iff (s : State) (a la : Nat) : overlapsControl s a la = true ↔
    ∃ b, s.tp.controlBase = some b ∧ rangesOverlap a la b 4096 = true := by
  unfold overlapsControl
  split <;> simp_all

theorem overlapsCapture_iff (s : State) (a la : Nat) : overlapsCapture s a la = true ↔
    ∃ r, s.tp.captureRing = some r ∧ rangesOverlap a la r.base (32 * r.slots) = true := by
  unfold overlapsCapture
  split <;> simp_all

theorem overlapsResult_iff (s : State) (a la : Nat) : overlapsResult s a la = true ↔
    ∃ b, s.tp.resultArea = some b ∧ rangesOverlap a la b 16384 = true := by
  unfold overlapsResult
  split <;> simp_all

/-- The image window is looked at unless the image is UNSET (R113). -/
theorem overlapsImage_iff (s : State) (a la : Nat) : overlapsImage s a la = true ↔
    s.ip.state ≠ .unset ∧ ∃ w, s.ip.window = some w ∧ rangesOverlap a la w.base w.length = true := by
  unfold overlapsImage
  split <;> simp_all

/-! ## The verdicts (R115, R118, R159) -/

/-- Only a verdict with a TAKEN code takes a directive. -/
@[simp] theorem refuse_isTaken (c : OutcomeCode) : (refuse c).code.isTaken = c.isTaken := rfl
@[simp] theorem badValue_isTaken (n : Nat) : (badValue n).code.isTaken = false := rfl
@[simp] theorem overlap_isTaken (n : Nat) : (overlap n).code.isTaken = false := rfl
@[simp] theorem taken_isTaken : taken.code.isTaken = true := rfl
@[simp] theorem takenMask_isTaken (m : Nat) : (takenMask m).code.isTaken = true := by
  unfold takenMask
  split <;> rfl

/-- A verdict that is taken has passed over the refusal before it. -/
theorem isTaken_of_ite {p : Prop} [Decidable p] {v w : Verdict} (h : (if p then v else w).code.isTaken = true)
    (hv : v.code.isTaken = false := by rfl) : ¬ p ∧ w.code.isTaken = true := by
  by_cases hp : p
  · rw [if_pos hp, hv] at h
    cases h
  · rw [if_neg hp] at h
    exact ⟨hp, h⟩

@[simp] theorem sweepRunning_iff (s : State) : sweepRunning s = true ↔ s.sc.state ≠ .idle := by
  simp [sweepRunning]

/-- The three conditions on the bases of SET WINDOWS, by their operands. -/
theorem lowestFailing_bases (a b c : Bool) : lowestFailing [(a, 1), (b, 1), (c, 3)] =
    if a = true ∨ b = true then some 1 else if c = true then some 3 else none := by
  revert a b c
  decide

/-- The five overlaps of SET WINDOWS, by their operands. -/
theorem lowestFailing_overlaps (a b c d e : Bool) : lowestFailing [(a, 1), (b, 1), (c, 1), (d, 3), (e, 3)] =
    if a = true ∨ b = true ∨ c = true then some 1 else if d = true ∨ e = true then some 3 else none := by
  revert a b c d e
  decide

/-- The conditions of SET IMAGE, by their operands. -/
theorem lowestFailing_image (a b c d e f g : Bool) :
    lowestFailing [(a, 1), (b, 2), (c, 2), (d, 2), (e, 1), (f, 3), (g, 2)] =
      if a = true ∨ e = true then some 1 else if b = true ∨ c = true ∨ d = true ∨ g = true then some 2
      else if f = true then some 3 else none := by
  revert a b c d e f g
  decide

/-- The conditions of MAP FIELD, by their operands. -/
theorem lowestFailing_field (a b c d e f g h : Bool) :
    lowestFailing [(a, 2), (b, 3), (c, 4), (d, 5), (e, 6), (f, 7), (g, 1), (h, 1)] =
      if g = true ∨ h = true then some 1 else if a = true then some 2 else if b = true then some 3
      else if c = true then some 4 else if d = true then some 5 else if e = true then some 6
      else if f = true then some 7 else none := by
  revert a b c d e f g h
  decide

/-- The verdict of SET WINDOWS, condition by condition (R159). -/
theorem judgeWindows_eq (o : WindowOperands) (s : State) :
    let slots := clamp 16 65536 o.slotCount.toNat
    let cb := o.captureBase.toNat
    let rb := o.resultBase.toNat
    judgeWindows o s =
      if s.sc.state ≠ .idle ∨ s.sc.holder ≠ none then refuse .busy
      else if cb % 32 ≠ 0 ∨ 4294967296 < cb + 32 * slots then badValue 1
      else if rb % 16384 ≠ 0 then badValue 3
      else if rangesOverlap cb (32 * slots) rb 16384 = true ∨ overlapsControl s cb (32 * slots) = true ∨
          overlapsImage s cb (32 * slots) = true then overlap 1
      else if overlapsControl s rb 16384 = true ∨ overlapsImage s rb 16384 = true then overlap 3
      else takenMask (clampMark 2 o.slotCount.toNat slots) := by
  intro slots cb rb
  simp only [judgeWindows, lowestFailing_bases, lowestFailing_overlaps, Bool.or_eq_true, sweepRunning_iff, Option.isSome_iff_ne_none,
    decide_eq_true_eq, Config.addressSpace, Config.resultBytes]
  split_ifs <;> rfl

/-- The verdict of SET IMAGE, condition by condition (R115). -/
theorem judgeImage_eq (o : ImageOperands) (s : State) :
    let b := o.base.toNat
    let n := o.length.toNat
    let c := o.checksum.toNat
    judgeImage o s =
      if s.ip.state = .published then refuse .state
      else if b % 64 ≠ 0 ∨ 4294967296 < b + n then badValue 1
      else if n = 0 ∨ n % 64 ≠ 0 ∨ 65536 < n ∨ n ≤ c then badValue 2
      else if c % 2 ≠ 0 then badValue 3
      else if overlapsControl s b n = true ∨ overlapsCapture s b n = true ∨ overlapsResult s b n = true then overlap 1
      else taken := by
  intro b n c
  simp only [judgeImage, lowestFailing_image, Bool.or_eq_true, or_assoc, decide_eq_true_eq, Config.addressSpace]
  split_ifs <;> rfl

/-- The verdict of MAP FIELD, condition by condition (R117, R118). -/
theorem judgeField_eq (o : FieldOperands) (s : State) :
    judgeField o s =
      if s.ip.state ≠ .loading then refuse .state
      else if windowLength s.ip ≤ o.offset.toNat ∨ (o.width.toNat = 16 ∧ o.offset.toNat % 2 = 1) then badValue 1
      else if o.width.toNat ≠ 8 ∧ o.width.toNat ≠ 16 then badValue 2
      else if encodingOperand o.encoding = none then badValue 3
      else if o.scale.toNat < 4 ∨ 14 < o.scale.toNat then badValue 4
      else if s.fr.heads ≤ o.head.toNat then badValue 5
      else if s.fr.zoneCount ≤ o.zone.toNat then badValue 6
      else if quantityOperand o.quantity.toNat = none then badValue 7
      else if fieldTaken s.ip o.offset.toNat o.width.toNat = true then overlap 1
      else if 128 ≤ s.ip.map.length then refuse .full
      else taken := by
  simp only [judgeField, lowestFailing_field, Bool.or_eq_true, Bool.and_eq_true, decide_eq_true_eq, Option.isNone_iff_eq_none,
    Config.mapEntries]
  split_ifs <;> simp only []

/-! ## The invariant of the windows -/

/-- The window map, the image state and the level of RESET are the same. -/
structure SameWindows (s t : State) : Prop where
  resetLow : t.resetLow = s.resetLow
  controlBase : t.tp.controlBase = s.tp.controlBase
  captureRing : t.tp.captureRing = s.tp.captureRing
  resultArea : t.tp.resultArea = s.tp.resultArea
  state : t.ip.state = s.ip.state
  window : t.ip.window = s.ip.window

/-- The invariant looks at the window map, the image state and the level of RESET alone. -/
theorem windowInv_of_same {s t : State} (h : WindowInv s) (k : SameWindows s t) : WindowInv t := by
  obtain ⟨running, low, unset, capture, result, image, captureControl, resultControl, imageControl, captureResult, captureImage,
    resultImage⟩ := h
  obtain ⟨h1, h2, h3, h4, h5, h6⟩ := k
  constructor <;> simp only [Running, h1, h2, h3, h4, h5, h6] <;> assumption

/-- What the verdict of a taken SET WINDOWS has found (R159). -/
theorem judgeWindows_taken {o : WindowOperands} {s : State} (h : (judgeWindows o s).code.isTaken = true) :
    let n := 32 * clamp 16 65536 o.slotCount.toNat
    let cb := o.captureBase.toNat
    let rb := o.resultBase.toNat
    (s.sc.state = .idle ∧ s.sc.holder = none) ∧ (cb % 32 = 0 ∧ cb + n ≤ 4294967296) ∧ rb % 16384 = 0 ∧
    Apart cb n rb 16384 ∧
    (∀ b, s.tp.controlBase = some b → Apart cb n b 4096 ∧ Apart rb 16384 b 4096) ∧
    ∀ w, s.ip.state ≠ .unset → s.ip.window = some w → Apart cb n w.base w.length ∧ Apart rb 16384 w.base w.length := by
  rw [judgeWindows_eq] at h
  obtain ⟨busy, h⟩ := isTaken_of_ite h
  obtain ⟨base1, h⟩ := isTaken_of_ite h
  obtain ⟨base3, h⟩ := isTaken_of_ite h
  obtain ⟨over1, h⟩ := isTaken_of_ite h
  obtain ⟨over3, h⟩ := isTaken_of_ite h
  simp only [not_or, not_not] at busy base1 base3 over1 over3
  obtain ⟨meet, control1, image1⟩ := over1
  obtain ⟨control3, image3⟩ := over3
  rw [overlapsControl_iff] at control1 control3
  rw [overlapsImage_iff] at image1 image3
  refine ⟨busy, by omega, base3, apart_of_not_overlap meet, fun b hb => ⟨?_, ?_⟩, fun w hu hw => ⟨?_, ?_⟩⟩
  · exact apart_of_not_overlap fun hc => control1 ⟨b, hb, hc⟩
  · exact apart_of_not_overlap fun hc => control3 ⟨b, hb, hc⟩
  · exact apart_of_not_overlap fun hc => image1 ⟨hu, w, hw, hc⟩
  · exact apart_of_not_overlap fun hc => image3 ⟨hu, w, hw, hc⟩

/-- What the verdict of a taken SET IMAGE has found (R115). -/
theorem judgeImage_taken {o : ImageOperands} {s : State} (h : (judgeImage o s).code.isTaken = true) :
    let b := o.base.toNat
    let n := o.length.toNat
    let c := o.checksum.toNat
    s.ip.state ≠ .published ∧ (b % 64 = 0 ∧ n % 64 = 0 ∧ 0 < n ∧ n ≤ 65536 ∧ b + n ≤ 4294967296) ∧ (c % 2 = 0 ∧ c < n) ∧
    (∀ a, s.tp.controlBase = some a → Apart b n a 4096) ∧
    (∀ r, s.tp.captureRing = some r → Apart r.base (32 * r.slots) b n) ∧
    ∀ a, s.tp.resultArea = some a → Apart a 16384 b n := by
  rw [judgeImage_eq] at h
  obtain ⟨state, h⟩ := isTaken_of_ite h
  obtain ⟨base, h⟩ := isTaken_of_ite h
  obtain ⟨length, h⟩ := isTaken_of_ite h
  obtain ⟨checksum, h⟩ := isTaken_of_ite h
  obtain ⟨clear, h⟩ := isTaken_of_ite h
  simp only [not_or] at clear
  obtain ⟨control, capture, result⟩ := clear
  rw [overlapsControl_iff] at control
  rw [overlapsCapture_iff] at capture
  rw [overlapsResult_iff] at result
  refine ⟨state, by omega, by omega, fun a ha => ?_, fun r hr => apart_symm ?_, fun a ha => apart_symm ?_⟩
  · exact apart_of_not_overlap fun hc => control ⟨a, ha, hc⟩
  · exact apart_of_not_overlap fun hc => capture ⟨r, hr, hc⟩
  · exact apart_of_not_overlap fun hc => result ⟨a, ha, hc⟩

/-- A taken MAP FIELD finds the image in LOADING, and its operands are those of an entry that fits (R117, R118). -/
theorem judgeField_taken {o : FieldOperands} {s : State} (h : (judgeField o s).code.isTaken = true) :
    s.ip.state = .loading ∧ o.offset.toNat < windowLength s.ip ∧ (o.width.toNat = 8 ∨ o.width.toNat = 16) ∧
    (o.width.toNat = 16 → o.offset.toNat % 2 = 0) ∧ (4 ≤ o.scale.toNat ∧ o.scale.toNat ≤ 14) ∧
    fieldTaken s.ip o.offset.toNat o.width.toNat = false ∧ s.ip.map.length < 128 := by
  rw [judgeField_eq] at h
  obtain ⟨state, h⟩ := isTaken_of_ite h
  obtain ⟨offset, h⟩ := isTaken_of_ite h
  obtain ⟨width, h⟩ := isTaken_of_ite h
  obtain ⟨encoding, h⟩ := isTaken_of_ite h
  obtain ⟨scale, h⟩ := isTaken_of_ite h
  obtain ⟨head, h⟩ := isTaken_of_ite h
  obtain ⟨zone, h⟩ := isTaken_of_ite h
  obtain ⟨quantity, h⟩ := isTaken_of_ite h
  obtain ⟨clear, h⟩ := isTaken_of_ite h
  obtain ⟨full, h⟩ := isTaken_of_ite h
  exact ⟨not_not.mp state, by omega, by omega, by omega, by omega, Bool.eq_false_of_not_eq_true clear, by omega⟩

theorem judgePublish_taken {s : State} (h : (judgePublish s).code.isTaken = true) : s.ip.state = .loading := by
  unfold judgePublish at h
  split at h
  · exact absurd h (by decide)
  · next hstate => exact not_not.mp hstate

theorem judgeRelease_taken {s : State} (h : (judgeRelease s).code.isTaken = true) : s.ip.state = .published := by
  unfold judgeRelease at h
  split at h
  · exact absurd h (by decide)
  · next hstate => exact not_not.mp hstate

theorem judgeClearMap_taken {s : State} (h : (judgeClearMap s).code.isTaken = true) : s.ip.state ≠ .published := by
  unfold judgeClearMap at h
  split at h
  · exact absurd h (by decide)
  · next hstate => exact hstate

/-- The invariant while RESET is high: the blocks act then alone. -/
def HighWindows (s : State) : Prop := s.resetLow = false ∧ WindowInv s

/-- Placing the capture ring and the result area where SET WINDOWS lets them keeps the invariant. -/
theorem highWindows_placed {s : State} {r : CaptureRing} {a : Nat} (h : HighWindows s)
    (hr : r.base % 32 = 0 ∧ 16 ≤ r.slots ∧ r.slots ≤ 65536 ∧ r.base + 32 * r.slots ≤ 4294967296)
    (ha : a % 16384 = 0 ∧ a + 16384 ≤ 4294967296) (meet : Apart r.base (32 * r.slots) a 16384)
    (control : ∀ b, s.tp.controlBase = some b → Apart r.base (32 * r.slots) b 4096 ∧ Apart a 16384 b 4096)
    (image : ∀ w, s.ip.window = some w → Apart r.base (32 * r.slots) w.base w.length ∧ Apart a 16384 w.base w.length) :
    HighWindows (s.withTp { s.tp with captureRing := some r, resultArea := some a }) := by
  obtain ⟨hlow, hs⟩ := h
  exact ⟨hlow,
    { running := hs.running
      low := fun hl => absurd (hlow.symm.trans hl) Bool.false_ne_true
      unset := hs.unset
      capture := fun _ hx => Option.some.inj hx ▸ hr
      result := fun _ hx => Option.some.inj hx ▸ ha
      image := hs.image
      captureControl := fun b _ hb hx => Option.some.inj hx ▸ (control b hb).1
      resultControl := fun b _ hb hx => Option.some.inj hx ▸ (control b hb).2
      imageControl := hs.imageControl
      captureResult := fun _ _ hx hy => Option.some.inj hx ▸ Option.some.inj hy ▸ meet
      captureImage := fun _ w hx hw => Option.some.inj hx ▸ (image w hw).1
      resultImage := fun _ w hx hw => Option.some.inj hx ▸ (image w hw).2 }⟩

theorem highWindows_of_same {s t : State} (h : HighWindows s) (k : SameWindows s t) : HighWindows t :=
  ⟨k.resetLow.trans h.1, windowInv_of_same h.2 k⟩

theorem highWindows_queueBlind : QueueBlind HighWindows where
  transfer _ _ _ _ _ hs := highWindows_of_same hs ⟨rfl, rfl, rfl, rfl, rfl, rfl⟩
  ports _ _ hs := highWindows_of_same hs ⟨rfl, rfl, rfl, rfl, rfl, rfl⟩
  ra _ _ hs := highWindows_of_same hs ⟨rfl, rfl, rfl, rfl, rfl, rfl⟩
  dd _ _ hs := highWindows_of_same hs ⟨rfl, rfl, rfl, rfl, rfl, rfl⟩
  table _ _ hs := highWindows_of_same hs ⟨rfl, rfl, rfl, rfl, rfl, rfl⟩
  holder _ _ hs := highWindows_of_same hs ⟨rfl, rfl, rfl, rfl, rfl, rfl⟩
  counts _ hs := highWindows_of_same hs ⟨rfl, rfl, rfl, rfl, rfl, rfl⟩

theorem highWindows_clockSteps : ClockSteps HighWindows where
  toSweepSteps := highWindows_queueBlind.sweepSteps fun _ _ hs => highWindows_of_same hs ⟨rfl, rfl, rfl, rfl, rfl, rfl⟩
  tsm _ _ hs := highWindows_of_same hs ⟨rfl, rfl, rfl, rfl, rfl, rfl⟩

theorem highWindows_frameSteps : FrameSteps HighWindows where
  toSweepSteps := highWindows_clockSteps.toSweepSteps
  fr _ _ hs := highWindows_of_same hs ⟨rfl, rfl, rfl, rfl, rfl, rfl⟩
  fm _ _ hs := highWindows_of_same hs ⟨rfl, rfl, rfl, rfl, rfl, rfl⟩

/-- SET WINDOWS, taken, keeps the invariant (R159, R160). -/
theorem highWindows_applyWindows {o : WindowOperands} {s : State} (h : HighWindows s)
    (taken : (judgeWindows o s).code.isTaken = true) : HighWindows (applyWindows o s) := by
  obtain ⟨-, capture, result, meet, control, image⟩ := judgeWindows_taken taken
  have slots := clamp_bounds (show 16 ≤ 65536 by omega) o.slotCount.toNat
  have placed := highWindows_placed (r := { base := o.captureBase.toNat, slots := clamp 16 65536 o.slotCount.toNat })
    (a := o.resultBase.toNat) h (by dsimp only; omega) (by have := o.resultBase.isLt; omega) meet control
    (fun w hw => image w (fun hu => by rw [h.2.unset.mp hu] at hw; cases hw) hw)
  have abandoned := highWindows_frameSteps.abandonFrame placed
  unfold applyWindows
  dsimp only
  split
  · exact highWindows_queueBlind.table _ _ abandoned
  · exact abandoned

/-- SET IMAGE, taken, keeps the invariant (R115). -/
theorem highWindows_applyImage {o : ImageOperands} {s : State} (h : HighWindows s)
    (taken : (judgeImage o s).code.isTaken = true) : HighWindows (applyImage o s) := by
  obtain ⟨hlow, hs⟩ := h
  obtain ⟨-, bounds, -, control, capture, result⟩ := judgeImage_taken taken
  exact ⟨hlow,
    { running := hs.running
      low := fun hl => absurd (hlow.symm.trans hl) Bool.false_ne_true
      unset := by simp [applyImage]
      capture := hs.capture
      result := hs.result
      image := fun _ hw => Option.some.inj hw ▸ bounds
      captureControl := hs.captureControl
      resultControl := hs.resultControl
      imageControl := fun b _ hb hw => Option.some.inj hw ▸ control b hb
      captureResult := hs.captureResult
      captureImage := fun r _ hr hw => Option.some.inj hw ▸ capture r hr
      resultImage := fun a _ ha hw => Option.some.inj hw ▸ result a ha }⟩

/-- The image window stays while the image goes from LOADING to PUBLISHED or back (R123, R129). -/
theorem highWindows_withIp {s : State} {ip : ImagePatcher} (h : HighWindows s) (hw : ip.window = s.ip.window)
    (hu : s.ip.state ≠ .unset) (hi : ip.state ≠ .unset) : HighWindows (s.withIp ip) := by
  obtain ⟨hlow, running, low, unset, capture, result, image, captureControl, resultControl, imageControl, captureResult,
    captureImage, resultImage⟩ := h
  rw [← hw] at *
  exact ⟨hlow, running, low, iff_of_false hi fun hn => hu (unset.mpr hn), capture, result, image, captureControl, resultControl,
    imageControl, captureResult, captureImage, resultImage⟩

theorem highWindows_ownerSteps : OwnerSteps HighWindows where
  toFrameSteps := highWindows_frameSteps
  table := highWindows_queueBlind.table
  tsm := highWindows_clockSteps.tsm
  clear _ _ hs := highWindows_of_same hs ⟨rfl, rfl, rfl, rfl, rfl, rfl⟩
  windows _ _ hs taken := highWindows_applyWindows hs taken
  reports _ _ hs := highWindows_of_same hs ⟨rfl, rfl, rfl, rfl, rfl, rfl⟩
  setImage _ _ hs taken := highWindows_applyImage hs taken
  mapField _ _ hs _ := highWindows_of_same hs ⟨rfl, rfl, rfl, rfl, rfl, rfl⟩
  clearMap _ hs _ := highWindows_of_same hs ⟨rfl, rfl, rfl, rfl, rfl, rfl⟩
  publish _ hs taken := highWindows_withIp hs rfl (by rw [judgePublish_taken taken]; decide) (ImageState.noConfusion ·)
  release _ hs taken := highWindows_withIp hs rfl (by rw [judgeRelease_taken taken]; decide) (ImageState.noConfusion ·)

theorem highWindows_wordSteps : WordSteps HighWindows where
  capture _ w run slot n hs := highWindows_frameSteps.takeCapture hs w run slot n
  dd _ _ hs := highWindows_of_same hs ⟨rfl, rfl, rfl, rfl, rfl, rfl⟩
  own d _ hs := highWindows_ownerSteps.own d hs
  outcome _ _ hs _ := highWindows_of_same hs ⟨rfl, rfl, rfl, rfl, rfl, rfl⟩
  image _ _ _ _ hs := highWindows_of_same hs ⟨rfl, rfl, rfl, rfl, rfl, rfl⟩

theorem windowInv_reset : WindowInv State.reset := by
  constructor <;> simp [State.reset, TransferPath.reset, ImagePatcher.reset]

/-- The release of RESET places the control region beside no window: there is none (R157). -/
theorem windowInv_release {s : State} (h : WindowInv s) (low : s.resetLow = true) (strap1 strap0 : Bool) :
    WindowInv { s with
      resetLow := false, tp := { s.tp with controlBase := some (controlBaseOf strap1 strap0) } } := by
  obtain ⟨-, hring, harea, hwindow⟩ := h.low low
  constructor <;> simp only [hring, harea, hwindow]
  case running => exact fun _ => ⟨_, rfl, rfl, strap1, strap0, rfl⟩
  case unset => exact h.unset.trans (by simp [hwindow])
  all_goals simp

/-- Settles O57: the windows are looked at by no block but the Transfer Path and the Image Patcher, so the invariant turns on SET
WINDOWS, SET IMAGE and the two commands of RESET. -/
theorem everyStepKeepsTheWindowInvariant : Obligations.EveryStepKeepsTheWindowInvariant := by
  intro s t hs h
  refine step_keeps (P := WindowInv) (fun s l hs => windowInv_of_same hs ⟨rfl, rfl, rfl, rfl, rfl, rfl⟩)
    (fun _ _ => windowInv_of_same windowInv_reset ⟨rfl, rfl, rfl, rfl, rfl, rfl⟩)
    (fun s strap1 strap0 hs low => windowInv_release hs low strap1 strap0) (fun s t hs high act => ?_) hs h
  exact (highWindows_queueBlind.acts highWindows_wordSteps (fun _ _ => highWindows_clockSteps.ticks) ⟨high, hs⟩ act).2

end Sys2Proof.Proofs
end

section
/-! The image record: what a write, MAP FIELD, PUBLISH and RELEASE do to the entries of the map and to the adjustment, and the
invariant of the image (R113 to R129). -/

namespace Sys2Proof.Proofs

open Sys2Proof.Machine

/-! ## The adjustment (R114, R124) -/

theorem adjust_cast (delta plus minus : Nat) :
    ((adjust delta plus minus : Nat) : Int) = ((delta : Int) + plus - minus) % 65536 := by
  simp only [adjust]
  omega

theorem mapAdjustment_cast (m : List PatchEntry) : ((mapAdjustment m : Nat) : Int) = termSum m % 65536 := by
  simp only [mapAdjustment]
  omega

theorem entryTerm_dormant {e : PatchEntry} (h : e.state = .dormant) : entryTerm e = 0 := by
  simp only [entryTerm, h]

theorem entryTerm_live {e : PatchEntry} {frozen : Nat} (h : e.state = .live frozen) :
    entryTerm e = (contribution e (e.baseline.getD 0) : Int) - contribution e frozen := by
  simp only [entryTerm, h]

/-- DORMANT entries have no part in the adjustment. -/
theorem termSum_dormant {m : List PatchEntry} (h : ∀ e ∈ m, e.state = .dormant) : termSum m = 0 := by
  induction m with
  | nil => rfl
  | cons e rest ih =>
    rw [termSum, entryTerm_dormant (h e List.mem_cons_self), ih fun x hx => h x (List.mem_cons_of_mem _ hx)]
    rfl

/-- The place of an entry in the image, its scaling and its source are kept: all but the baseline and the state. -/
def SameField (x e : PatchEntry) : Prop := { x with baseline := e.baseline, state := e.state } = e

theorem SameField.fieldOk {x e : PatchEntry} (h : SameField x e) {w : ImageWindow} (hw : FieldOk w e) : FieldOk w x := by
  rw [← h] at hw
  exact hw

theorem SameField.offset {x e : PatchEntry} (h : SameField x e) : x.offset = e.offset := by rw [← h]

theorem SameField.width {x e : PatchEntry} (h : SameField x e) : x.width = e.width := by rw [← h]

/-! ## A write into the window (R120, R127, R128) -/

/-- A LIVE entry has a baseline (R127). -/
def LiveBased (e : PatchEntry) : Prop := ∀ frozen, e.state = .live frozen → e.baseline ≠ none

/-- What the write of a word leaves of an entry. -/
def writtenEntry (offset : Nat) (data : Word) (enables : BitVec 4) (e : PatchEntry) : PatchEntry :=
  (writeEntry offset data enables 0 e).1

section

variable (offset : Nat) (data : Word) (enables : BitVec 4)

/-- The entry that a write leaves does not depend on the adjustment. -/
theorem writeEntry_fst (delta : Nat) (e : PatchEntry) :
    (writeEntry offset data enables delta e).1 = writtenEntry offset data enables e := by
  unfold writtenEntry writeEntry
  dsimp only
  split
  · rfl
  · split
    · rfl
    · split <;> rfl

theorem writtenEntry_sameField (e : PatchEntry) : SameField (writtenEntry offset data enables e) e := by
  unfold writtenEntry writeEntry
  dsimp only
  split
  · rfl
  · split
    · rfl
    · split <;> rfl

theorem writtenEntry_dormant {e : PatchEntry} (h : e.state = .dormant) :
    (writtenEntry offset data enables e).state = .dormant := by
  unfold writtenEntry writeEntry
  simp only [h]
  split
  · exact h
  · split <;> rfl

/-- A write keeps a LIVE entry only together with a baseline. -/
theorem writtenEntry_liveBased {e : PatchEntry} (h : LiveBased e) : LiveBased (writtenEntry offset data enables e) := by
  unfold writtenEntry writeEntry
  dsimp only
  split
  · exact h
  · split
    · exact fun _ _ hb => by cases hb
    · split
      · exact fun _ hs => by cases hs
      · next hs => exact fun _ hl => by rw [hs] at hl; cases hl

/-- A write moves the adjustment by as much as it moves the entry's term. -/
theorem writeEntry_snd (delta : Nat) (hd : delta < 65536) (e : PatchEntry) :
    ((writeEntry offset data enables delta e).2 : Int) =
      (delta + (entryTerm (writtenEntry offset data enables e) - entryTerm e)) % 65536 := by
  unfold writtenEntry writeEntry
  dsimp only
  split
  · dsimp only
    omega
  · split
    · dsimp only
      split
      · next frozen hs =>
        rw [adjust_cast, entryTerm_live hs, entryTerm_live (e := { e with baseline := some _, state := _ }) hs]
        simp only [contribution, Option.getD_some]
        congr 1
        ring
      · next hs =>
        rw [entryTerm_dormant hs, entryTerm_dormant (e := { e with baseline := some _, state := _ }) hs]
        omega
    · split
      · next frozen hs =>
        dsimp only
        rw [adjust_cast, entryTerm_live hs, entryTerm_dormant (e := { e with baseline := none, state := .dormant }) rfl]
        congr 1
        ring
      · next hs =>
        dsimp only
        rw [entryTerm_dormant hs, entryTerm_dormant (e := { e with baseline := none, state := _ }) hs]
        omega

/-- The entries of the map are written one by one. -/
theorem writeEntries_fst (m : List PatchEntry) (delta : Nat) :
    (writeEntries offset data enables m delta).1 = m.map (writtenEntry offset data enables) := by
  induction m generalizing delta with
  | nil => rfl
  | cons e rest ih => simp only [writeEntries, writeEntry_fst, ih, List.map_cons]

/-- The adjustment moves by as much as the sum of the terms. -/
theorem writeEntries_snd (m : List PatchEntry) (delta : Nat) (hd : delta < 65536) :
    ((writeEntries offset data enables m delta).2 : Int) =
      (delta + (termSum (m.map (writtenEntry offset data enables)) - termSum m)) % 65536 := by
  induction m generalizing delta with
  | nil =>
    simp only [writeEntries, List.map_nil, termSum]
    omega
  | cons e rest ih =>
    have one := writeEntry_snd offset data enables delta hd e
    have more := ih (writeEntry offset data enables delta e).2 (by omega)
    simp only [writeEntries, List.map_cons, termSum]
    omega

/-- A write keeps the adjustment the sum of R124. -/
theorem write_adjustment {ip : ImagePatcher} (h : (ip.adjustment : Int) = termSum ip.map % 65536) :
    ((ip.write offset data enables).adjustment : Int) = termSum (ip.write offset data enables).map % 65536 := by
  have moved := writeEntries_snd offset data enables ip.map ip.adjustment (by omega)
  simp only [ImagePatcher.write, writeEntries_fst]
  omega

theorem write_map (ip : ImagePatcher) :
    (ip.write offset data enables).map = ip.map.map (writtenEntry offset data enables) :=
  writeEntries_fst offset data enables ip.map ip.adjustment

end

/-! ## An entry joins the map (R117, R118) -/

/-- The new entry joins the others. -/
theorem insertEntry_perm (e : PatchEntry) (m : List PatchEntry) : (insertEntry e m).Perm (e :: m) := by
  induction m with
  | nil => exact List.Perm.refl _
  | cons x rest ih =>
    unfold insertEntry
    split
    · exact List.Perm.refl _
    · exact (ih.cons x).trans (List.Perm.swap e x rest)

/-- An order by offset that the new entry has with the entries before and behind it stays the order of the map. -/
theorem insertEntry_pairwise {R : PatchEntry → PatchEntry → Prop} (mono : ∀ x y, R x y → x.offset ≤ y.offset)
    (e : PatchEntry) (m : List PatchEntry) (behind : ∀ x ∈ m, e.offset < x.offset → R e x)
    (before : ∀ x ∈ m, x.offset ≤ e.offset → R x e) (h : m.Pairwise R) : (insertEntry e m).Pairwise R := by
  induction m with
  | nil => exact List.pairwise_singleton _ _
  | cons x rest ih =>
    obtain ⟨hx, hrest⟩ := List.pairwise_cons.mp h
    unfold insertEntry
    split
    · next hlt =>
      refine List.pairwise_cons.mpr ⟨fun y hy => ?_, h⟩
      rcases List.mem_cons.mp hy with rfl | hy'
      · exact behind _ hy hlt
      · exact behind _ hy (lt_of_lt_of_le hlt (mono _ _ (hx y hy')))
    · next hge =>
      refine List.pairwise_cons.mpr ⟨fun y hy => ?_, ih (fun y hy => behind y (List.mem_cons_of_mem _ hy))
        (fun y hy => before y (List.mem_cons_of_mem _ hy)) hrest⟩
      rcases List.mem_cons.mp ((insertEntry_perm e rest).mem_iff.mp hy) with rfl | hy'
      · exact before x List.mem_cons_self (not_lt.mp hge)
      · exact hx y hy'

/-- A new entry is DORMANT, so it has no part in the adjustment. -/
theorem termSum_insertEntry {e : PatchEntry} (h : e.state = .dormant) (m : List PatchEntry) :
    termSum (insertEntry e m) = termSum m := by
  induction m with
  | nil => simp only [insertEntry, termSum, entryTerm_dormant h, add_zero]
  | cons x rest ih =>
    unfold insertEntry
    split
    · simp only [termSum, entryTerm_dormant h, zero_add]
    · simp only [termSum, ih]

/-- A field that is not taken lies apart from the checksum word and from every entry (R117). -/
theorem fieldTaken_eq_false {ip : ImagePatcher} {offset width : Nat} (h : fieldTaken ip offset width = false) :
    Apart offset (width / 8) (windowChecksum ip) 2 ∧ ∀ e ∈ ip.map, Apart offset (width / 8) e.offset (e.width / 8) := by
  simp only [fieldTaken, Bool.or_eq_false_iff, List.any_eq_false, fieldsOverlap] at h
  exact ⟨apart_of_not_overlap (Bool.not_eq_true _ ▸ h.1), fun e he => apart_of_not_overlap (h.2 e he)⟩

/-! ## PUBLISH (R123, R124) -/

theorem publishEntry_sameField (t : AlignmentTable) (e : PatchEntry) : SameField (publishEntry t e).1 e := by
  unfold publishEntry
  split <;> rfl

theorem publishEntry_liveBased (t : AlignmentTable) (e : PatchEntry) : LiveBased (publishEntry t e).1 := by
  unfold publishEntry
  split
  · next b _ hb _ => exact fun _ _ hn => by rw [hb] at hn; cases hn
  · exact fun _ hs => by cases hs
  · exact fun _ hs => by cases hs

/-! ## The invariant of the image -/

/-- The invariant looks at the image record alone. -/
theorem imageInv_of_ip {s t : State} (h : ImageInv s) (k : t.ip = s.ip) : ImageInv t := by
  obtain ⟨unset, empty, checksum, fields, count, order, dormant, live, adjustment⟩ := h
  constructor <;> rw [k] <;> assumption

/-- The entries changed one by one, each in its place, in an image that is not UNSET. -/
theorem imageInv_mapped {s : State} (h : ImageInv s) {ip : ImagePatcher} (f : PatchEntry → PatchEntry)
    (hfield : ∀ e, SameField (f e) e) (hstate : ip.state = .unset ↔ s.ip.state = .unset) (hwindow : ip.window = s.ip.window)
    (hmap : ip.map = s.ip.map.map f) (hdormant : ip.state ≠ .published → ∀ e ∈ s.ip.map, (f e).state = .dormant)
    (hlive : ∀ e ∈ s.ip.map, LiveBased (f e)) (hadjustment : (ip.adjustment : Int) = termSum ip.map % 65536) :
    ImageInv (s.withIp ip) where
  unset := hstate.trans (hwindow ▸ h.unset)
  empty hu := hmap.trans (by rw [h.empty (hstate.mp hu), List.map_nil])
  checksum w hw := h.checksum w (hwindow ▸ hw)
  fields w hw e he := by
    obtain ⟨x, hx, rfl⟩ := List.mem_map.mp (hmap ▸ he)
    exact (hfield x).fieldOk (h.fields w (hwindow ▸ hw) x hx)
  count := by
    show ip.map.length ≤ 128
    rw [hmap, List.length_map]
    exact h.count
  order := by
    show ip.map.Pairwise _
    rw [hmap, List.pairwise_map]
    refine h.order.imp fun {x y} hxy => ?_
    rw [(hfield x).offset, (hfield x).width, (hfield y).offset]
    exact hxy
  dormant hp e he := by
    obtain ⟨x, hx, rfl⟩ := List.mem_map.mp (hmap ▸ he)
    exact hdormant hp x hx
  live e he := by
    obtain ⟨x, hx, rfl⟩ := List.mem_map.mp (hmap ▸ he)
    exact hlive x hx
  adjustment := hadjustment

theorem imageInv_write {s : State} (h : ImageInv s) (offset : Nat) (data : Word) (enables : BitVec 4) :
    ImageInv (s.withIp (s.ip.write offset data enables)) :=
  imageInv_mapped h _ (writtenEntry_sameField offset data enables) Iff.rfl rfl (write_map offset data enables s.ip)
    (fun hp e he => writtenEntry_dormant offset data enables (h.dormant hp e he))
    (fun e he => writtenEntry_liveBased offset data enables (h.live e he)) (write_adjustment offset data enables h.adjustment)

theorem imageInv_publish {s : State} (h : ImageInv s) (taken : (judgePublish s).code.isTaken = true) :
    ImageInv (applyPublish s) :=
  imageInv_mapped h (fun e => (publishEntry s.table e).1) (publishEntry_sameField s.table)
    (iff_of_false (ImageState.noConfusion ·) (by rw [judgePublish_taken taken]; decide)) rfl rfl (fun hp => absurd rfl hp)
    (fun e _ => publishEntry_liveBased s.table e) (mapAdjustment_cast _)

theorem imageInv_release {s : State} (h : ImageInv s) (taken : (judgeRelease s).code.isTaken = true) :
    ImageInv (applyRelease s) := by
  have dormant : ∀ x ∈ s.ip.release.map, x.state = .dormant := fun x hx => by
    obtain ⟨e, _, rfl⟩ := List.mem_map.mp hx
    rfl
  refine imageInv_mapped h (fun e => { e with state := .dormant }) (fun e => rfl)
    (iff_of_false (ImageState.noConfusion ·) (by rw [judgeRelease_taken taken]; decide)) rfl rfl (fun _ _ _ => rfl)
    (fun _ _ _ hs => by cases hs) ?_
  rw [termSum_dormant dormant]
  rfl

theorem imageInv_setImage {o : ImageOperands} {s : State} (taken : (judgeImage o s).code.isTaken = true) :
    ImageInv (applyImage o s) := by
  obtain ⟨-, -, checksum, -⟩ := judgeImage_taken taken
  constructor <;> simp [applyImage, termSum, checksum]

/-- Without LIVE entries the adjustment is 0 (R124). -/
theorem imageInv_adjustment_zero {s : State} (h : ImageInv s) (hp : s.ip.state ≠ .published) : s.ip.adjustment = 0 := by
  have := h.adjustment
  rw [termSum_dormant (h.dormant hp)] at this
  omega

theorem imageInv_clearMap {s : State} (h : ImageInv s) (taken : (judgeClearMap s).code.isTaken = true) :
    ImageInv (applyClearMap s) where
  unset := h.unset
  empty _ := rfl
  checksum := h.checksum
  fields _ _ e he := absurd he (List.not_mem_nil)
  count := Nat.zero_le _
  order := List.Pairwise.nil
  dormant _ e he := absurd he (List.not_mem_nil)
  live e he := absurd he (List.not_mem_nil)
  adjustment := by
    show (s.ip.adjustment : Int) = 0
    rw [imageInv_adjustment_zero h (judgeClearMap_taken taken)]
    rfl

theorem imageInv_mapField {o : FieldOperands} {s : State} (h : ImageInv s) (taken : (judgeField o s).code.isTaken = true) :
    ImageInv (applyField o s) := by
  obtain ⟨loading, hoffset, hwidth, heven, hscale, hfree, hroom⟩ := judgeField_taken taken
  obtain ⟨apartChecksum, apartEntries⟩ := fieldTaken_eq_false hfree
  have mem : ∀ x ∈ insertEntry (newEntry o) s.ip.map, x = newEntry o ∨ x ∈ s.ip.map := fun x hx =>
    List.mem_cons.mp ((insertEntry_perm _ _).mem_iff.mp hx)
  have notUnset : s.ip.state ≠ .unset := by
    rw [loading]
    decide
  exact
    { unset := h.unset
      empty := fun hu => absurd hu notUnset
      checksum := h.checksum
      fields := fun w hw x hx => by
        have hw' : s.ip.window = some w := hw
        rcases mem x hx with rfl | hx
        · simp only [windowLength, windowChecksum, hw', Option.map_some, Option.getD_some] at hoffset apartChecksum
          exact ⟨hoffset, hwidth, heven, hscale.1, hscale.2, apartChecksum⟩
        · exact h.fields w hw x hx
      count := by
        show (insertEntry (newEntry o) s.ip.map).length ≤ 128
        rw [(insertEntry_perm _ _).length_eq, List.length_cons]
        omega
      order := by
        have hw : (newEntry o).width = 8 ∨ (newEntry o).width = 16 := hwidth
        refine insertEntry_pairwise (fun x y hxy => by omega) _ _ (fun x hx hlt => ?_) (fun x hx hle => ?_) h.order
        · obtain hap | hap : Apart (newEntry o).offset ((newEntry o).width / 8) _ _ := apartEntries x hx <;> omega
        · obtain hap | hap : Apart (newEntry o).offset ((newEntry o).width / 8) _ _ := apartEntries x hx <;> omega
      dormant := fun hp x hx => by
        rcases mem x hx with rfl | hx
        · rfl
        · exact h.dormant hp x hx
      live := fun x hx => by
        rcases mem x hx with rfl | hx
        · exact fun _ hs => by cases hs
        · exact h.live x hx
      adjustment := by
        show (s.ip.adjustment : Int) = termSum (insertEntry (newEntry o) s.ip.map) % 65536
        rw [termSum_insertEntry rfl]
        exact h.adjustment }

theorem imageInv_queueBlind : QueueBlind ImageInv where
  transfer _ _ _ _ _ hs := imageInv_of_ip hs rfl
  ports _ _ hs := imageInv_of_ip hs rfl
  ra _ _ hs := imageInv_of_ip hs rfl
  dd _ _ hs := imageInv_of_ip hs rfl
  table _ _ hs := imageInv_of_ip hs rfl
  holder _ _ hs := imageInv_of_ip hs rfl
  counts _ hs := imageInv_of_ip hs rfl

theorem imageInv_clockSteps : ClockSteps ImageInv where
  toSweepSteps := imageInv_queueBlind.sweepSteps fun _ _ hs => imageInv_of_ip hs rfl
  tsm _ _ hs := imageInv_of_ip hs rfl

theorem imageInv_frameSteps : FrameSteps ImageInv where
  toSweepSteps := imageInv_clockSteps.toSweepSteps
  fr _ _ hs := imageInv_of_ip hs rfl
  fm _ _ hs := imageInv_of_ip hs rfl

theorem imageInv_applyWindows (o : WindowOperands) {s : State} (h : ImageInv s) : ImageInv (applyWindows o s) := by
  have abandoned := imageInv_frameSteps.abandonFrame (s := s.withTp { s.tp with
    captureRing := some { base := o.captureBase.toNat, slots := clamp 16 65536 o.slotCount.toNat }
    resultArea := some o.resultBase.toNat }) (imageInv_of_ip h rfl)
  unfold applyWindows
  dsimp only
  split
  · exact imageInv_queueBlind.table _ _ abandoned
  · exact abandoned

theorem imageInv_ownerSteps : OwnerSteps ImageInv where
  toFrameSteps := imageInv_frameSteps
  table := imageInv_queueBlind.table
  tsm := imageInv_clockSteps.tsm
  clear _ _ hs := imageInv_of_ip hs rfl
  windows o _ hs _ := imageInv_applyWindows o hs
  reports _ _ hs := imageInv_of_ip hs rfl
  setImage _ _ _ taken := imageInv_setImage taken
  mapField _ _ hs taken := imageInv_mapField hs taken
  clearMap _ hs taken := imageInv_clearMap hs taken
  publish _ hs taken := imageInv_publish hs taken
  release _ hs taken := imageInv_release hs taken

theorem imageInv_wordSteps : WordSteps ImageInv where
  capture _ w run slot n hs := imageInv_frameSteps.takeCapture hs w run slot n
  dd _ _ hs := imageInv_of_ip hs rfl
  own d _ hs := imageInv_ownerSteps.own d hs
  outcome _ _ hs _ := imageInv_of_ip hs rfl
  image _ o data enables hs := imageInv_write hs o data enables

theorem imageInv_reset : ImageInv State.reset := by
  constructor <;> simp [State.reset, ImagePatcher.reset, termSum]

/-- Settles O58: the image record changes by a write into the window and by the five image directives alone. -/
theorem everyStepKeepsTheImageInvariant : Obligations.EveryStepKeepsTheImageInvariant := by
  intro s t hs h
  refine step_keeps (P := ImageInv) (fun s l hs => imageInv_of_ip hs rfl) (fun _ _ => imageInv_of_ip imageInv_reset rfl)
    (fun s _ _ hs _ => imageInv_of_ip hs rfl) (fun s t hs _ act => ?_) hs h
  exact imageInv_queueBlind.acts imageInv_wordSteps (fun _ _ => imageInv_clockSteps.ticks) hs act

end Sys2Proof.Proofs
end

section
/-! The ranges of the geometry, the follow records and the timing: what the operations of each block keep of its own invariant
(R1, R24 to R26, R44 to R58). -/

namespace Sys2Proof.Proofs

open Sys2Proof.Machine

/-! ## The timing (R44 to R58) -/

theorem spindleJudged_iff (t : SpindleMonitor) : spindleJudged t = true ↔ t.timebase = .external ∧ t.nominal ≠ 0 := by
  simp [spindleJudged]

/-- A spindle state that may be set keeps the timing. -/
theorem timingInv_spindle {t : SpindleMonitor} (h : TimingInv t) {new : SpindleState}
    (hnew : new ≠ .unknown → t.timebase = .external ∧ t.nominal ≠ 0) : TimingInv { t with spindle := new } :=
  { h with spindle := hnew }

/-- The last index time becomes absent. -/
theorem timingInv_noIndex {t : SpindleMonitor} (h : TimingInv t) : TimingInv { t with lastIndex := false } :=
  { h with lastIndex := fun hl => absurd hl Bool.false_ne_true }

theorem timingInv_lastPeriod {t : SpindleMonitor} (h : TimingInv t) (p : Option Nat) :
    TimingInv { t with lastPeriod := p } :=
  { h with }

theorem timingInv_lossCount {t : SpindleMonitor} (h : TimingInv t) {n : Nat} (hn : n < 24)
    (hext : t.timebase ≠ .external → n = 0) : TimingInv { t with lossCount := n } :=
  { h with loss := ⟨hn, hext⟩ }

/-- An index event returns the interval to 0 and records the index time while the spindle is judged (R51). -/
theorem timingInv_recordIndex {t : SpindleMonitor} (h : TimingInv t) :
    TimingInv { t with interval := 0, lastIndex := spindleJudged t } :=
  { h with
    interval := Nat.zero_le _
    lastIndex := (spindleJudged_iff t).mp }

/-- The timer starts again from 0 (R58, R59). -/
theorem timingInv_timer {t : SpindleMonitor} (h : TimingInv t) {mode : TimerMode} {period : Nat}
    (hp : 1 ≤ period ∧ period ≤ 16777215) :
    TimingInv { t with timerMode := mode, timerPeriod := period, timerCounter := 0 } :=
  { h with timer := ⟨hp.1, hp.2, Nat.zero_le _, fun _ => rfl⟩ }

theorem timerDue_eq_false_iff (t : SpindleMonitor) :
    timerDue t = false ↔ t.timerMode = .off ∨ t.timerCounter < t.timerPeriod := by
  simp only [timerDue, Bool.and_eq_false_iff, decide_eq_false_iff_not, not_not, not_le]

/-- A tick is counted by a timer that is not due (R50, R57). -/
theorem timingInv_countTick {t : SpindleMonitor} (h : TimingInv t) (due : timerDue t = false) :
    TimingInv (countTick { t with prescaleCounter := 0 }) :=
  { h with
    prescale := ⟨h.prescale.1, Nat.two_pow_pos _⟩
    interval := saturate_le _ _ _
    timer := by
      obtain ⟨low, high, counter, off⟩ := h.timer
      refine ⟨low, high, ?_, fun hoff => if_pos hoff⟩
      rcases (timerDue_eq_false_iff t).mp due with hoff | hlt
      · simp [countTick, hoff]
      · simp only [countTick]
        split <;> omega }

theorem timingInv_prescaleCounter {t : SpindleMonitor} (h : TimingInv t) {n : Nat} (hn : n < 2 ^ t.prescale) :
    TimingInv { t with prescaleCounter := n } :=
  { h with prescale := ⟨h.prescale.1, hn⟩ }

/-- A timebase restart, whatever the source and the prescale (R46). -/
theorem timingInv_restart {t : SpindleMonitor} (h : TimingInv t) (source : TimebaseState) {j : Nat} (hj : j ≤ 10) :
    TimingInv (restartTimebase { t with timebase := source, prescale := j, lossCount := 0 }) where
  prescale := ⟨hj, Nat.two_pow_pos _⟩
  loss := ⟨(by decide : 0 < 24), fun _ => rfl⟩
  nominal := h.nominal
  tolerance := h.tolerance
  interval := Nat.zero_le _
  timer := ⟨h.timer.1, h.timer.2.1, Nat.zero_le _, fun _ => rfl⟩
  spindle hs := absurd rfl hs
  lastIndex hl := absurd hl Bool.false_ne_true

theorem clampNominal_range (p : Nat) : clampNominal p = 0 ∨ (256 ≤ clampNominal p ∧ clampNominal p ≤ 8388607) := by
  unfold clampNominal
  split
  · exact .inl rfl
  · exact .inr (clamp_bounds (by omega) p)

/-- SET INDEX clears the index record (R56). -/
theorem timingInv_setIndex {t : SpindleMonitor} (h : TimingInv t) (edge : Edge) (p tol : Nat) :
    TimingInv { t with
      edge := edge, nominal := clampNominal p, tolerance := clamp 1 255 tol, lastIndex := false, lastPeriod := none,
      interval := 0, spindle := .unknown } :=
  { h with
    nominal := clampNominal_range p
    tolerance := clamp_bounds (by omega) tol
    interval := Nat.zero_le _
    spindle := fun hs => absurd rfl hs
    lastIndex := fun hl => absurd hl Bool.false_ne_true }

/-! ## The follow records (R24 to R26) -/

/-- A monitor that is known but for its records, field by field. -/
theorem monitor_fields {fm old new : FollowMonitor} (h : { fm with records := old.records } = new) :
    fm.settle = new.settle ∧ fm.inhibit = new.inhibit ∧ fm.acquireLimit = new.acquireLimit ∧ fm.active = new.active ∧
    fm.last = new.last := by
  subst h
  exact ⟨rfl, rfl, rfl, rfl, rfl⟩

/-- A follow record whose counts and settings are in their ranges (R24). -/
def RecordOk (r : FollowRecord) : Prop :=
  r.run ≤ 255 ∧ r.acquire ≤ 4095 ∧ r.floor ≤ 4095 ∧ r.signal ≤ 65535 ∧ 1 ≤ r.window ∧ r.window ≤ 511

/-- A follow state of the active head: neither UNSEEN nor DORMANT. -/
def Seen (r : FollowRecord) : Prop := r.state ≠ .unseen ∧ r.state ≠ .dormant

theorem enterAcquiring_ok {r : FollowRecord} (h : RecordOk r) : RecordOk (enterAcquiring r) := by
  obtain ⟨-, -, floor, signal, window⟩ := h
  exact ⟨Nat.zero_le _, Nat.zero_le _, floor, signal, window⟩

theorem enterAcquiring_seen (r : FollowRecord) : Seen (enterAcquiring r) :=
  ⟨FollowState.noConfusion, FollowState.noConfusion⟩

/-- The judgement of a frame keeps a record in its ranges, and its head seen (R33 to R35). -/
theorem judgeFrame_ok (settle inhibit : Nat) (grade : Grade) (p : Int) {r : FollowRecord} (h : RecordOk r) (hseen : Seen r) :
    RecordOk (judgeFrame settle inhibit grade p r) ∧ Seen (judgeFrame settle inhibit grade p r) := by
  obtain ⟨run, acquire, rest⟩ := h
  have one : 1 ≤ 255 := by omega
  have counted := saturate_le 255 r.run 1
  unfold judgeFrame
  dsimp only
  split
  · next hs =>
    split
    · split
      · exact ⟨⟨one, acquire, rest⟩, FollowState.noConfusion, FollowState.noConfusion⟩
      · exact ⟨⟨one, acquire, rest⟩, FollowState.noConfusion, FollowState.noConfusion⟩
    · exact ⟨⟨Nat.zero_le _, acquire, rest⟩, hseen⟩
  · split
    · split
      · exact ⟨⟨counted, acquire, rest⟩, FollowState.noConfusion, FollowState.noConfusion⟩
      · exact ⟨⟨counted, acquire, rest⟩, hseen⟩
    · exact ⟨enterAcquiring_ok ⟨run, acquire, rest⟩, enterAcquiring_seen r⟩
  · split
    · exact ⟨⟨Nat.zero_le _, acquire, rest⟩, FollowState.noConfusion, FollowState.noConfusion⟩
    · exact ⟨⟨run, acquire, rest⟩, hseen⟩
  · split
    · split
      · exact ⟨⟨counted, acquire, rest⟩, FollowState.noConfusion, FollowState.noConfusion⟩
      · exact ⟨⟨counted, acquire, rest⟩, hseen⟩
    · exact ⟨⟨Nat.zero_le _, acquire, rest⟩, hseen⟩
  · exact ⟨⟨run, acquire, rest⟩, hseen⟩
  · exact ⟨⟨run, acquire, rest⟩, hseen⟩

theorem countAcquire_ok {r : FollowRecord} (h : RecordOk r) : RecordOk (countAcquire r) := by
  unfold countAcquire
  split
  · obtain ⟨run, -, rest⟩ := h
    exact ⟨run, saturate_le _ _ _, rest⟩
  · exact h

theorem countAcquire_state (r : FollowRecord) : (countAcquire r).state = r.state := by
  unfold countAcquire
  split <;> rfl

section

variable {heads wpr : Nat} {fm : FollowMonitor}

/-- The record of the active head is replaced by another of a seen head (R27). -/
theorem followInv_setRecord (h : FollowInv heads wpr fm) {a : Fin 16} (ha : fm.active = some a) {r : FollowRecord}
    (ok : RecordOk r) (seen : Seen r) : FollowInv heads wpr (fm.setRecord a r) :=
  { h with
    records := fun x => by
      rw [FollowMonitor.setRecord_record]
      split
      · exact ok
      · exact h.records x
    states := fun x => by
      rw [FollowMonitor.setRecord_record, FollowMonitor.setRecord_active]
      split
      · next hx => exact iff_of_true (hx ▸ ha) seen
      · exact h.states x }

/-- A head switch parks the active head, and the new head enters ACQUIRING (R28). -/
theorem followInv_headSwitch (h : FollowInv heads wpr fm) {x : Fin 16} (hx : x.val < heads) (hswitch : fm.active ≠ some x) :
    FollowInv heads wpr (headSwitch fm x) := by
  obtain ⟨settle, inhibit, limit, active, last⟩ := monitor_fields (headSwitch_frame fm x)
  refine ⟨settle ▸ h.settle, inhibit ▸ h.inhibit, limit ▸ h.acquireLimit, fun y => ?_, fun a ha => ?_,
    fun hn => absurd (active.symm.trans hn) (Option.some_ne_none _), fun y => ?_, fun w hw => ?_⟩
  · rw [headSwitch_record hswitch]
    split
    · exact enterAcquiring_ok (h.records y)
    · split
      · exact h.records y
      · exact h.records y
  · obtain rfl : x = a := Option.some.inj (active.symm.trans ha)
    exact ⟨hx, congrArg LastFrame.head last⟩
  · rw [active, headSwitch_record hswitch]
    by_cases hy : y = x
    · rw [if_pos hy]
      exact iff_of_true (hy ▸ rfl) (enterAcquiring_seen _)
    · rw [if_neg hy]
      refine iff_of_false (fun he => hy (Option.some.inj he).symm) ?_
      by_cases hp : fm.active = some y
      · rw [if_pos hp]
        exact fun hd => hd.2 rfl
      · rw [if_neg hp]
        exact fun hd => hp ((h.states y).mpr hd)
  · rw [last] at hw
    cases hw

/-- After the entry checks the frame's head is the active one (R27 step 1). -/
theorem followInv_entryChecks (h : FollowInv heads wpr fm) (gapLimit : Nat) {x : FrameSeen} (hx : x.head.val < heads) :
    FollowInv heads wpr (entryChecks wpr gapLimit fm x).fm ∧ (entryChecks wpr gapLimit fm x).fm.active = some x.head := by
  by_cases hactive : fm.active = some x.head
  · have acquiring := followInv_setRecord h hactive (enterAcquiring_ok (h.records x.head)) (enterAcquiring_seen _)
    by_cases hseek : isSeek fm x = true
    · rw [entryChecks_of_seek hactive hseek]
      exact ⟨acquiring, hactive⟩
    · by_cases hvoid : x.grade = .void
      · rw [entryChecks_of_no_gap_check hactive hseek (.inl hvoid)]
        exact ⟨h, hactive⟩
      · cases hlast : fm.last.wedge with
        | none =>
          rw [entryChecks_of_no_gap_check hactive hseek (.inr hlast)]
          exact ⟨h, hactive⟩
        | some last =>
          rw [entryChecks_of_gap_check hactive hseek hvoid hlast]
          split
          · exact ⟨h, hactive⟩
          · exact ⟨acquiring, hactive⟩
  · rw [entryChecks_of_switch hactive]
    exact ⟨followInv_headSwitch h hx hactive, congrArg FollowMonitor.active (headSwitch_frame fm x.head)⟩

/-- The last-frame record brought up to date (R27 step 4). -/
theorem followInv_updateLast (h : FollowInv heads wpr fm) {a : Fin 16} (ha : fm.active = some a) (x : FrameSeen) :
    FollowInv heads wpr { fm with last := updateLast wpr x fm.last } :=
  { h with
    active := fun b hb => h.active b hb
    absent := fun hn => absurd (ha.symm.trans hn) (Option.some_ne_none _)
    wedge := fun w hw => by
      simp only [updateLast] at hw
      split at hw
      · next hmark =>
        rw [Bool.and_eq_true, decide_eq_true_eq] at hmark
        exact Option.some.inj hw ▸ hmark.2
      · exact h.wedge w hw }

/-- A frame of a configured head keeps the follow records (R27). -/
theorem followInv_followFrame (h : FollowInv heads wpr fm) (gapLimit : Nat) {x : FrameSeen} (hx : x.head.val < heads) :
    FollowInv heads wpr (followFrame wpr gapLimit fm x).fm := by
  obtain ⟨checked, active⟩ := followInv_entryChecks h gapLimit hx
  obtain ⟨ok, seen⟩ := judgeFrame_ok (entryChecks wpr gapLimit fm x).fm.settle (entryChecks wpr gapLimit fm x).fm.inhibit
    x.grade x.offset (checked.records x.head) ((checked.states x.head).mp active)
  have counted := countAcquire_ok ok
  rw [Seen, ← countAcquire_state] at seen
  refine followInv_updateLast (followInv_setRecord checked active ?_ ?_) active x
  · split
    · exact counted
    · exact counted
  · split
    · exact seen
    · exact seen

/-- Records changed in their settings or histories alone keep their states (R39, R41). -/
theorem followInv_changeRecords (h : FollowInv heads wpr fm) (c : HeadChoice) {f : FollowRecord → FollowRecord}
    (ok : ∀ r, RecordOk r → RecordOk (f r)) (state : ∀ r, (f r).state = r.state) :
    FollowInv heads wpr (changeRecords fm c f) := by
  obtain ⟨settle, inhibit, limit, active, last⟩ := monitor_fields (changeRecords_frame fm c f)
  refine ⟨settle ▸ h.settle, inhibit ▸ h.inhibit, limit ▸ h.acquireLimit, fun y => ?_, ?_, ?_, fun y => ?_, ?_⟩
  · rw [changeRecords_record]
    split
    · exact ok _ (h.records y)
    · exact h.records y
  · rw [active, last]
    exact h.active
  · rw [active, last]
    exact h.absent
  · rw [active, changeRecords_record]
    split
    · rw [state]
      exact h.states y
    · exact h.states y
  · rw [last]
    exact h.wedge

theorem clearRecord_ok {r : FollowRecord} (h : RecordOk r) : RecordOk (clearRecord r) := by
  obtain ⟨-, -, rest⟩ := h
  exact ⟨Nat.zero_le _, Nat.zero_le _, rest⟩

/-- With no active head and every seen head gone the follow records are consistent. -/
theorem followInv_none {heads' wpr' : Nat} (h : FollowInv heads wpr fm) {records : Vector FollowRecord 16}
    (ok : ∀ x : Fin 16, RecordOk records[x]) (unseen : ∀ x : Fin 16, ¬ Seen records[x]) :
    FollowInv heads' wpr' { fm with records := records, active := none, last := LastFrame.absent } :=
  { h with
    records := ok
    active := fun _ ha => (nomatch ha)
    absent := fun _ => rfl
    states := fun x => iff_of_false (fun he => (nomatch he)) (unseen x)
    wedge := fun _ hw => (nomatch hw) }

/-- SET GEOMETRY unsees every head (R43). -/
theorem followInv_unsee {heads' wpr' : Nat} (h : FollowInv heads wpr fm) :
    FollowInv heads' wpr' { fm with
      records := mapBank unseeRecord fm.records, active := none, last := LastFrame.absent } := by
  have get : ∀ x : Fin 16, (mapBank unseeRecord fm.records)[x] = unseeRecord (fm.record x) := fun x =>
    mapBank_get _ _ x.val x.isLt
  refine followInv_none h (fun x => ?_) (fun x hx => ?_)
  · obtain ⟨-, -, rest⟩ := h.records x
    rw [get]
    exact ⟨Nat.zero_le _, Nat.zero_le _, rest⟩
  · rw [get] at hx
    exact hx.1 rfl

/-- CLEAR HEAD unsees the named heads, and the active head with the last-frame record when it is named (R42). -/
theorem followInv_clearHead (h : FollowInv heads wpr fm) (c : HeadChoice) :
    FollowInv heads wpr (if activeNamed fm c then
      { changeRecords fm c clearRecord with active := none, last := LastFrame.absent } else changeRecords fm c clearRecord) := by
  have records : ∀ x : Fin 16, RecordOk ((changeRecords fm c clearRecord).record x) := fun x => by
    rw [changeRecords_record]
    split
    · exact clearRecord_ok (h.records x)
    · exact h.records x
  obtain ⟨settle, inhibit, limit, active, last⟩ := monitor_fields (changeRecords_frame fm c clearRecord)
  -- a head that is named is unseen, any other keeps its state
  have seen_iff : ∀ x : Fin 16, Seen ((changeRecords fm c clearRecord).record x) ↔
      fm.active = some x ∧ choiceNames c x = false := fun x => by
    rw [changeRecords_record]
    cases hn : choiceNames c x
    · rw [if_neg Bool.false_ne_true, h.states x]
      exact (and_iff_left rfl).symm
    · exact iff_of_false (fun hs => hs.1 rfl) (fun hs => Bool.noConfusion hs.2)
  split
  · next named =>
    refine ⟨settle ▸ h.settle, inhibit ▸ h.inhibit, limit ▸ h.acquireLimit, records, fun a ha => (nomatch ha),
      fun _ => rfl, fun x => iff_of_false (fun he => (nomatch he)) fun hs => ?_, fun w hw => (nomatch hw)⟩
    obtain ⟨ha, hn⟩ := (seen_iff x).mp hs
    rw [activeNamed, ha] at named
    exact Bool.false_ne_true (hn.symm.trans named)
  · next named =>
    refine ⟨settle ▸ h.settle, inhibit ▸ h.inhibit, limit ▸ h.acquireLimit, records, ?_, ?_, fun x => ?_, ?_⟩
    · rw [active, last]
      exact h.active
    · rw [active, last]
      exact h.absent
    · rw [active, show (_ ∧ _ ↔ _) from seen_iff x]
      refine ⟨fun ha => ⟨ha, ?_⟩, And.left⟩
      rw [activeNamed, ha] at named
      exact Bool.eq_false_of_not_eq_true named
    · rw [last]
      exact h.wedge

end

/-! ## The geometry (R1) -/

section

variable {fr : FrameReducer}

theorem geometryInv_counts (h : GeometryInv fr) {torn badWedge : Nat} (ht : torn ≤ 65535) (hb : badWedge ≤ 65535) :
    GeometryInv { fr with torn := torn, badWedge := badWedge } :=
  { h with counts := ⟨ht, hb⟩ }

theorem geometryInv_noFrame (h : GeometryInv fr) : GeometryInv { fr with frame := none } :=
  { h with frame := fun _ hf => (nomatch hf) }

/-- A frame before word 6 holds no reduction that is read (R4, R9). -/
theorem geometryInv_early (h : GeometryInv fr) {f : FrameRecord} (h1 : 1 ≤ f.expects) (h2 : f.expects < 6) :
    GeometryInv { fr with frame := some f } :=
  { h with frame := fun _ hf => Option.some.inj hf ▸ ⟨h1, by omega, fun h6 => by omega⟩ }

/-- The offset of a reduction lies in its range (R15 to R17). -/
theorem reduceFrame_offset (fr : FrameReducer) (floor signal : Nat) (f : FrameRecord) :
    -512 ≤ (reduceFrame fr floor signal f).offset ∧ (reduceFrame fr floor signal f).offset ≤ 511 := by
  unfold reduceFrame
  split
  · dsimp only
    omega
  · dsimp only
    split
    · dsimp only
      omega
    · next hvoid =>
      have range : -512 ≤ rawOffset (burstSums f floor) ∧ rawOffset (burstSums f floor) ≤ 512 := by
        have hn := burstSums_n_natAbs_le f floor
        have hq := burstSums_q_natAbs_le f floor
        have sums : ¬ ((burstSums f floor).sn = 0 ∧ (burstSums f floor).sq = 0) := fun hz => hvoid (by simp [isVoid, hz])
        by_cases hsn : (burstSums f floor).sn = 0
        · obtain ⟨_, -, -, -, -, low, high, -⟩ := rawOffset_quadrature_spec hn hq (chooseRegion_of_sn_eq_zero hsn)
            (fun hz => sums ⟨hsn, hz⟩)
          exact ⟨low, high⟩
        · cases hr : chooseRegion (burstSums f floor)
          · have := rawOffset_normal_spec hn hr hsn
            omega
          · have hsq : (burstSums f floor).sq ≠ 0 := fun hz => by
              rw [chooseRegion_of_sq_eq_zero hz hsn] at hr
              cases hr
            obtain ⟨_, -, -, -, -, low, high, -⟩ := rawOffset_quadrature_spec hn hq hr hsq
            exact ⟨low, high⟩
      split
      · dsimp only
        omega
      · dsimp only
        omega

/-- A frame is FOREIGN when its head is not configured, and only then (R10). -/
theorem reduceFrame_foreign (fr : FrameReducer) (floor signal : Nat) (f : FrameRecord) :
    (reduceFrame fr floor signal f).grade = .foreign ↔ fr.heads ≤ f.head.val := by
  unfold reduceFrame
  split
  · next hh => exact iff_of_true rfl hh
  · next hh =>
    refine iff_of_false ?_ hh
    dsimp only
    split
    · exact Grade.noConfusion
    · split
      · exact Grade.noConfusion
      · dsimp only
        split <;> exact Grade.noConfusion

/-- A frame past word 5 holds a reduction made under this geometry (R9). -/
theorem geometryInv_reduced (h : GeometryInv fr) {f : FrameRecord} (h1 : f.expects = 6 ∨ f.expects = 7)
    (floor signal : Nat) (g : FrameRecord) (hg : g.head = f.head) (hr : f.reduction = some (reduceFrame fr floor signal g)) :
    GeometryInv { fr with frame := some f } :=
  { h with
    frame := fun _ hf => Option.some.inj hf ▸ ⟨by omega, by omega, fun _ =>
      ⟨_, hr, by rw [reduceFrame_foreign, hg], reduceFrame_offset fr floor signal g⟩⟩ }

/-- The next word of a frame past word 5 (R19). -/
theorem geometryInv_next (h : GeometryInv fr) {f : FrameRecord} (hf : fr.frame = some f) (h6 : f.expects = 6) :
    GeometryInv { fr with frame := some { f with expects := 7 } } := by
  obtain ⟨-, -, reduced⟩ := h.frame f hf
  exact { h with frame := fun _ hg => Option.some.inj hg ▸ ⟨Nat.le_add_left 1 6, Nat.le_refl 7, fun _ => reduced (by omega)⟩ }

theorem latchFrameWord_expects {f : FrameRecord} (w : Word) (h : 1 ≤ f.expects ∧ f.expects < 5) :
    (latchFrameWord f w).expects = f.expects + 1 := by
  obtain he | he | he | he : f.expects = 1 ∨ f.expects = 2 ∨ f.expects = 3 ∨ f.expects = 4 := by omega
  all_goals simp only [latchFrameWord, he]

end

end Sys2Proof.Proofs
end

section
/-! The zone list (R1, R22, R23): what SET GEOMETRY and SET ZONES leave at each zone, and their verdicts. -/

namespace Sys2Proof.Proofs

open Sys2Proof.Machine

/-! ## SET GEOMETRY extends or cuts the list (R22) -/

theorem resizeZones_length (zones : List Nat) (z : Nat) : (resizeZones zones z).length = z := by
  unfold resizeZones
  split
  · rw [List.length_take]
    omega
  · rw [List.length_append, List.length_map, List.length_range]
    omega

/-- A zone that was there keeps its first track, and each added one starts a track above the zone before it. -/
theorem resizeZones_getD (zones : List Nat) {n z : Nat} (h : z < n) : (resizeZones zones n).getD z 0 =
    if z < zones.length then zones.getD z 0 else zones.getLastD 0 + (z + 1 - zones.length) := by
  unfold resizeZones
  split
  · next hcut =>
    rw [if_pos (by omega), List.getD_eq_getElem?_getD, List.getElem?_take, if_pos h, List.getD_eq_getElem?_getD]
  · split
    · next hz => rw [List.getD_append _ _ _ _ hz]
    · next hz =>
      rw [List.getD_append_right _ _ _ _ (by omega), List.getD_eq_getElem _ _ (by simp; omega), List.getElem_map,
        List.getElem_range]
      omega

/-! ## SET ZONES replaces the given first tracks (R23) -/

theorem givenTracks_length (o : ZoneOperands) : (givenTracks o).length = min o.count.toNat 6 := by
  simp [givenTracks]

theorem givenTracks_getD (o : ZoneOperands) {i : Nat} (h6 : i < 6) (h : i < o.count.toNat) :
    (givenTracks o).getD i 0 = o.tracks[i].toNat := by
  rw [List.getD_eq_getElem _ _ (by rw [givenTracks_length]; omega)]
  simp [givenTracks]

section

variable {zones given : List Nat} {first : Nat}

theorem replaceZones_length (h : first + given.length ≤ zones.length) :
    (replaceZones zones first given).length = zones.length := by
  simp only [replaceZones, List.length_take, List.length_append, List.length_drop]
  omega

/-- The given first tracks stand at their zones, every other zone keeps its own. -/
theorem replaceZones_getD (h : first + given.length ≤ zones.length) {z : Nat} (hz : z < zones.length) :
    (replaceZones zones first given).getD z 0 =
      if first ≤ z ∧ z < first + given.length then given.getD (z - first) 0 else zones.getD z 0 := by
  have hfirst : (zones.take first).length = first := by
    rw [List.length_take]
    omega
  simp only [replaceZones, List.getD_eq_getElem?_getD, List.getElem?_take, if_pos hz]
  by_cases hlow : z < first
  · rw [if_neg (by omega), List.append_assoc, List.getElem?_append_left (by omega), List.getElem?_take, if_pos hlow]
  · by_cases hmid : z < first + given.length
    · rw [if_pos ⟨by omega, hmid⟩, List.getElem?_append_left (by rw [List.length_append]; omega),
        List.getElem?_append_right (by omega), hfirst]
    · rw [if_neg (by omega), List.getElem?_append_right (by rw [List.length_append]; omega), List.length_append, hfirst,
        List.getElem?_drop]
      congr 2
      omega

end

theorem ascending_iff_isChain (l : List Nat) : ascending l = true ↔ l.IsChain (· < ·) := by
  induction l with
  | nil => simp [ascending]
  | cons a rest ih =>
    cases rest with
    | nil => simp [ascending]
    | cons b rest => rw [ascending, Bool.and_eq_true, decide_eq_true_eq, ih, List.isChain_cons_cons]

theorem ascending_iff_pairwise (l : List Nat) : ascending l = true ↔ l.Pairwise (· < ·) :=
  (ascending_iff_isChain l).trans List.isChain_iff_pairwise

/-- A list strictly ascends when each entry is below the next. -/
theorem ascending_iff_getD (l : List Nat) :
    ascending l = true ↔ ∀ z : Nat, z + 1 < l.length → l.getD z 0 < l.getD (z + 1) 0 := by
  rw [ascending_iff_isChain, List.isChain_iff_getElem]
  refine forall_congr' fun z => forall_congr' fun hz => ?_
  rw [List.getD_eq_getElem _ _ hz, List.getD_eq_getElem _ _ (by omega)]

/-! ## The verdicts (R22, R23) -/

/-- The lowest operand among the failing conditions is the one named (R150). -/
theorem lowestFailing_eq_some {l : List (Bool × Nat)} {n : Nat} (hn : (true, n) ∈ l) (low : ∀ x ∈ l, x.1 = true → n ≤ x.2) :
    lowestFailing l = some n := by
  cases h : lowestFailing l with
  | none => exact absurd ((lowestFailing_none l).mp h _ hn) Bool.noConfusion
  | some m =>
    obtain ⟨hm, least⟩ := lowestFailing_some l m h
    rw [le_antisymm (least _ hn rfl) (low _ hm rfl)]

theorem mem_trackFaults {l : List Nat} {n : Nat} {x : Bool × Nat} :
    x ∈ trackFaults l n ↔ ∃ i, i < l.length ∧ x = (decide (16777215 < l.getD i 0), n + i) := by
  induction l generalizing n with
  | nil => simp [trackFaults]
  | cons t rest ih =>
    rw [trackFaults, List.mem_cons, ih]
    constructor
    · rintro (rfl | ⟨i, hi, rfl⟩)
      · exact ⟨0, by simp, rfl⟩
      · exact ⟨i + 1, by simpa using hi, by rw [List.getD_cons_succ, Nat.add_assoc, Nat.add_comm 1]⟩
    · rintro ⟨i, hi, rfl⟩
      cases i with
      | zero => exact .inl rfl
      | succ i => exact .inr ⟨i, by simpa using hi, by rw [List.getD_cons_succ, Nat.add_assoc, Nat.add_comm 1]⟩

/-- The two conditions on the operands of SET GEOMETRY, by their operands. -/
theorem lowestFailing_geometry (a b : Bool) :
    lowestFailing [(a, 1), (b, 2)] = if a = true then some 1 else if b = true then some 2 else none := by
  revert a b
  decide

/-- The verdict of SET GEOMETRY, condition by condition (R22). -/
theorem judgeGeometry_eq (o : GeometryOperands) (s : State) : judgeGeometry o s =
    if s.sc.state ≠ .idle then refuse .busy
    else if o.heads.toNat < 1 ∨ 16 < o.heads.toNat then badValue 1
    else if o.zones.toNat < 1 ∨ 32 < o.zones.toNat then badValue 2
    else if s.fr.zoneCount < o.zones.toNat ∧ 16777215 < s.fr.zones.getLastD 0 + (o.zones.toNat - s.fr.zoneCount) then
      badValue 2
    else takenMask (clampMark 3 o.wpr.toNat (clamp 64 1023 o.wpr.toNat)
      + clampMark 4 o.gapLimit.toNat (clamp 1 63 o.gapLimit.toNat)) := by
  simp only [judgeGeometry, lowestFailing_geometry, Bool.or_eq_true, sweepRunning_iff, decide_eq_true_eq]
  split_ifs <;> simp only []

/-- A taken SET GEOMETRY finds no sweep, and its operands in their ranges (R22). -/
theorem judgeGeometry_taken {o : GeometryOperands} {s : State} (h : (judgeGeometry o s).code.isTaken = true) :
    s.sc.state = .idle ∧ (1 ≤ o.heads.toNat ∧ o.heads.toNat ≤ 16) ∧ (1 ≤ o.zones.toNat ∧ o.zones.toNat ≤ 32) ∧
    (s.fr.zoneCount < o.zones.toNat → s.fr.zones.getLastD 0 + (o.zones.toNat - s.fr.zoneCount) ≤ 16777215) := by
  rw [judgeGeometry_eq] at h
  obtain ⟨idle, h⟩ := isTaken_of_ite h
  obtain ⟨heads, h⟩ := isTaken_of_ite h
  obtain ⟨zones, h⟩ := isTaken_of_ite h
  obtain ⟨room, h⟩ := isTaken_of_ite h
  exact ⟨not_not.mp idle, by omega, by omega, fun hz => not_lt.mp fun hc => room ⟨hz, hc⟩⟩

/-- The conditions of SET ZONES that name its first operand: the zones reach past Z, zone 0 would not start at track 0, or the
list would not ascend (R23). -/
def Misplaced (o : ZoneOperands) (fr : FrameReducer) : Prop :=
  fr.zoneCount < o.first.toNat + o.count.toNat ∨ (o.first.toNat = 0 ∧ (givenTracks o).headD 0 ≠ 0) ∨
    ¬ ascending (replaceZones fr.zones o.first.toNat (givenTracks o)) = true

/-- The conditions of SET ZONES as its owner lists them. -/
def zoneConditions (o : ZoneOperands) (fr : FrameReducer) : List (Bool × Nat) :=
  [(decide (o.count.toNat < 1) || decide (6 < o.count.toNat), 2),
    (decide (fr.zoneCount < o.first.toNat + o.count.toNat), 1)] ++ trackFaults (givenTracks o) 3 ++
    [(decide (o.first.toNat = 0) && decide ((givenTracks o).headD 0 ≠ 0), 1),
      (!ascending (replaceZones fr.zones o.first.toNat (givenTracks o)), 1)]

theorem judgeZones_eq (o : ZoneOperands) (s : State) : judgeZones o s =
    if s.sc.state ≠ .idle then refuse .busy
    else match lowestFailing (zoneConditions o s.fr) with
      | some n => badValue n
      | none => taken := by
  by_cases h : s.sc.state ≠ .idle
  · rw [if_pos h, judgeZones, if_pos ((sweepRunning_iff s).mpr h)]
  · rw [if_neg h, judgeZones, if_neg (fun hr => h ((sweepRunning_iff s).mp hr))]
    rfl

/-- A condition of SET ZONES that fails: operand 1, operand 2, or a first track that is too great. -/
theorem mem_zoneConditions {o : ZoneOperands} {fr : FrameReducer} {n : Nat} : (true, n) ∈ zoneConditions o fr ↔
    (n = 1 ∧ Misplaced o fr) ∨ (n = 2 ∧ (o.count.toNat < 1 ∨ 6 < o.count.toNat)) ∨
    ∃ i, i < (givenTracks o).length ∧ 16777215 < (givenTracks o).getD i 0 ∧ n = 3 + i := by
  simp only [zoneConditions, Misplaced, List.mem_append, List.mem_cons, List.not_mem_nil, or_false, mem_trackFaults,
    Prod.mk.injEq, eq_comm (a := true), Bool.or_eq_true, Bool.and_eq_true, decide_eq_true_eq, Bool.not_eq_true',
    Bool.not_eq_true]
  constructor
  · rintro (((⟨h, rfl⟩ | ⟨h, rfl⟩) | ⟨i, hi, h, rfl⟩) | ⟨h, rfl⟩ | ⟨h, rfl⟩)
    · exact .inr (.inl ⟨rfl, h⟩)
    · exact .inl ⟨rfl, .inl h⟩
    · exact .inr (.inr ⟨i, hi, h, rfl⟩)
    · exact .inl ⟨rfl, .inr (.inl h)⟩
    · exact .inl ⟨rfl, .inr (.inr h)⟩
  · rintro (⟨rfl, h | h | h⟩ | ⟨rfl, h⟩ | ⟨i, hi, h, rfl⟩)
    · exact .inl (.inl (.inr ⟨h, rfl⟩))
    · exact .inr (.inl ⟨h, rfl⟩)
    · exact .inr (.inr ⟨h, rfl⟩)
    · exact .inl (.inl (.inl ⟨h, rfl⟩))
    · exact .inl (.inr ⟨i, hi, h, rfl⟩)

/-- SET ZONES names the lowest operand of a condition that fails (R23, R150). -/
theorem judgeZones_bad {o : ZoneOperands} {s : State} (idle : s.sc.state = .idle) {n : Nat}
    (hn : (true, n) ∈ zoneConditions o s.fr) (low : ∀ m, (true, m) ∈ zoneConditions o s.fr → n ≤ m) :
    judgeZones o s = badValue n := by
  rw [judgeZones_eq, if_neg (not_not.mpr idle), lowestFailing_eq_some hn fun x hx ht => low x.2 (ht ▸ hx)]

/-- SET ZONES is taken when no condition fails. -/
theorem judgeZones_good {o : ZoneOperands} {s : State} (idle : s.sc.state = .idle)
    (good : ∀ m, (true, m) ∉ zoneConditions o s.fr) : judgeZones o s = taken := by
  rw [judgeZones_eq, if_neg (not_not.mpr idle), (lowestFailing_none _).mpr fun x hx =>
    Bool.eq_false_of_not_eq_true fun ht => good x.2 (ht ▸ hx)]

/-- A taken SET ZONES finds no sweep, and no condition that fails (R23). -/
theorem judgeZones_taken {o : ZoneOperands} {s : State} (h : (judgeZones o s).code.isTaken = true) :
    s.sc.state = .idle ∧ ∀ m, (true, m) ∉ zoneConditions o s.fr := by
  rw [judgeZones_eq] at h
  obtain ⟨idle, h⟩ := isTaken_of_ite h
  refine ⟨not_not.mp idle, fun m hm => ?_⟩
  cases hl : lowestFailing (zoneConditions o s.fr) with
  | none => exact absurd ((lowestFailing_none _).mp hl _ hm) Bool.noConfusion
  | some n =>
    rw [hl] at h
    exact absurd h Bool.noConfusion

/-! ## The zone list stays in order (R1) -/

/-- A zone list of Z entries as R1 has it: its first tracks strictly ascend from 0, and none is above the greatest track. -/
def ZonesOk (n : Nat) (zones : List Nat) : Prop :=
  zones.length = n ∧ zones.headD 1 = 0 ∧ zones.Pairwise (· < ·) ∧ ∀ t ∈ zones, t ≤ 16777215

theorem mem_iff_getD {l : List Nat} {t : Nat} : t ∈ l ↔ ∃ z, z < l.length ∧ l.getD z 0 = t := by
  rw [List.mem_iff_getElem]
  constructor
  · rintro ⟨z, hz, rfl⟩
    exact ⟨z, hz, List.getD_eq_getElem _ _ hz⟩
  · rintro ⟨z, hz, rfl⟩
    exact ⟨z, hz, (List.getD_eq_getElem _ _ hz).symm⟩

theorem headD_eq_getD {l : List Nat} (h : 0 < l.length) (d : Nat) : l.headD d = l.getD 0 0 := by
  cases l with
  | nil => exact absurd h (Nat.lt_irrefl 0)
  | cons => rfl

theorem getLastD_eq_getD (l : List Nat) : l.getLastD 0 = l.getD (l.length - 1) 0 := by
  rw [List.getLastD_eq_getLast?, List.getLast?_eq_getElem?, List.getD_eq_getElem?_getD]

/-- The zone list entry by entry: from 0, each below the next, none above the greatest track. -/
theorem zonesOk_iff {n : Nat} (hn : 0 < n) (zones : List Nat) : ZonesOk n zones ↔
    zones.length = n ∧ zones.getD 0 0 = 0 ∧ (∀ z, z + 1 < n → zones.getD z 0 < zones.getD (z + 1) 0) ∧
      ∀ z, z < n → zones.getD z 0 ≤ 16777215 := by
  unfold ZonesOk
  rw [← ascending_iff_pairwise, ascending_iff_getD]
  refine and_congr_right fun hl => ?_
  rw [headD_eq_getD (by omega), hl]
  refine and_congr_right fun _ => and_congr_right fun _ => ⟨fun h z hz => h _ (mem_iff_getD.mpr ⟨z, hl ▸ hz, rfl⟩), ?_⟩
  intro h t ht
  obtain ⟨z, hz, rfl⟩ := mem_iff_getD.mp ht
  exact h z (hl ▸ hz)

/-- SET GEOMETRY keeps the zone list in order (R22). -/
theorem zonesOk_resize {n m : Nat} {zones : List Nat} (hn : 1 ≤ n) (hm : 1 ≤ m) (h : ZonesOk n zones)
    (room : n < m → zones.getLastD 0 + (m - n) ≤ 16777215) : ZonesOk m (resizeZones zones m) := by
  obtain ⟨len, start, below, limit⟩ := (zonesOk_iff hn zones).mp h
  have last : zones.getLastD 0 = zones.getD (n - 1) 0 := by rw [getLastD_eq_getD, len]
  refine (zonesOk_iff hm _).mpr ⟨resizeZones_length zones m, ?_, fun z hz => ?_, fun z hz => ?_⟩
  · rw [resizeZones_getD _ hm, if_pos (by omega)]
    exact start
  · rw [resizeZones_getD _ hz, resizeZones_getD _ (by omega), len, last]
    by_cases h1 : z + 1 < n
    · rw [if_pos h1, if_pos (by omega)]
      exact below z h1
    · rw [if_neg h1]
      split
      · obtain rfl : z = n - 1 := by omega
        omega
      · omega
  · rw [resizeZones_getD _ hz, len]
    split
    · next hzn => exact limit z hzn
    · have := room (by omega)
      omega

/-- SET ZONES, taken, keeps the zone list in order (R23). -/
theorem zonesOk_replace {o : ZoneOperands} {fr : FrameReducer} (hn : 1 ≤ fr.zoneCount) (h : ZonesOk fr.zoneCount fr.zones)
    (good : ∀ m, (true, m) ∉ zoneConditions o fr) :
    ZonesOk fr.zoneCount (replaceZones fr.zones o.first.toNat (givenTracks o)) := by
  have placed : ¬ Misplaced o fr := fun hc => good 1 (mem_zoneConditions.mpr (.inl ⟨rfl, hc⟩))
  have count : ¬ (o.count.toNat < 1 ∨ 6 < o.count.toNat) := fun hc => good 2 (mem_zoneConditions.mpr (.inr (.inl ⟨rfl, hc⟩)))
  have tracks : ∀ i, i < (givenTracks o).length → (givenTracks o).getD i 0 ≤ 16777215 := fun i hi =>
    not_lt.mp fun hc => good _ (mem_zoneConditions.mpr (.inr (.inr ⟨i, hi, hc, rfl⟩)))
  simp only [Misplaced, not_or, not_and, not_not, not_lt] at placed
  obtain ⟨reach, zero, order⟩ := placed
  obtain ⟨len, start, -, limit⟩ := (zonesOk_iff hn _).mp h
  have given := givenTracks_length o
  have fits : o.first.toNat + (givenTracks o).length ≤ fr.zones.length := by omega
  have newLen := replaceZones_length fits
  refine (zonesOk_iff hn _).mpr ⟨newLen.trans len, ?_, ?_, fun z hz => ?_⟩
  · rw [replaceZones_getD fits (by omega)]
    split
    · next hfirst =>
      rw [Nat.zero_sub, ← headD_eq_getD (by omega) 0]
      exact zero (by omega)
    · exact start
  · rw [← len, ← newLen]
    exact (ascending_iff_getD _).mp order
  · rw [replaceZones_getD fits (by omega)]
    split
    · exact tracks _ (by omega)
    · exact limit z hz

end Sys2Proof.Proofs
end

section
/-! The bench invariant: the geometry, the follow records, the sweep and the timing lean on one another (R1, R24 to R26, R44 to
R58, R76, R99). -/

namespace Sys2Proof.Proofs

open Sys2Proof.Machine

/-! ## The sweep record by itself -/

/-- The operands, the counts and the accumulator of a sweep in their ranges (R76, R99). -/
structure SweepRanges (sc : SweepController) : Prop where
  quota : 1 ≤ sc.quota ∧ sc.quota ≤ 4096
  deadline : 1 ≤ sc.deadline ∧ sc.deadline ≤ 255
  limits : sc.limit ≤ 511 ∧ sc.spreadLimit ≤ 511 ∧ sc.jogThreshold ≤ 65535
  counts : sc.passNumber ≤ 65535 ∧ sc.passesCompleted ≤ 65535 ∧ sc.revolutions ≤ 255
  extremes : (sc.acc.least ≠ none ↔ 0 < sc.acc.sumW) ∧ (sc.acc.greatest ≠ none ↔ 0 < sc.acc.sumW)
  totals : sc.acc.missed ≤ 65535 ∧ sc.acc.slips ≤ 65535

/-- The heads and the zone of the sweep are configured, and both windows are present (R77). -/
def Placed (s : State) : Prop :=
  s.sc.firstHead.val < s.fr.heads ∧ s.sc.lastHead.val < s.fr.heads ∧ s.sc.currentHead.val < s.fr.heads ∧
    s.sc.zone.val < s.fr.zoneCount ∧ s.tp.captureRing ≠ none ∧ s.tp.resultArea ≠ none

/-- A sweep runs: all that `BenchInv` asks, but for how far a wait or a measurement is. -/
structure Sweeping (s : State) : Prop where
  geometry : GeometryInv s.fr
  follow : FollowInv s.fr.heads s.fr.wpr s.fm
  timing : TimingInv s.tsm
  ranges : SweepRanges s.sc
  placed : Placed s

theorem sweepRanges_of_inv {s : State} (h : SweepInv s) : SweepRanges s.sc :=
  ⟨h.quota, h.deadline, h.limits, h.counts, h.extremes, h.totals⟩

theorem sweeping_of_bench {s : State} (h : BenchInv s) (runs : s.sc.state ≠ .idle) : Sweeping s :=
  ⟨h.geometry, h.follow, h.timing, sweepRanges_of_inv h.sweep, h.sweep.runs runs⟩

/-- A sweep that keeps what a wait and a measurement ask keeps the invariant. -/
theorem Sweeping.bench {s : State} (h : Sweeping s)
    (waits : s.sc.state = .awaitHead ∨ s.sc.state = .measuring → s.sc.revolutions < s.sc.deadline)
    (measures : s.sc.state = .measuring → 1 ≤ s.sc.acc.n ∧ s.sc.acc.n < s.sc.quota) : BenchInv s :=
  ⟨h.geometry, h.follow, ⟨h.ranges.quota, h.ranges.deadline, h.ranges.limits, h.ranges.counts, fun _ => h.placed, waits, measures,
    h.ranges.extremes, h.ranges.totals⟩, h.timing⟩

theorem Sweeping.withSc {s : State} (h : Sweeping s) {sc : SweepController} (ranges : SweepRanges sc)
    (placed : Placed (s.withSc sc)) : Sweeping (s.withSc sc) :=
  ⟨h.geometry, h.follow, h.timing, ranges, placed⟩

/-- The Sweep Controller goes to IDLE; all else of the sweep record may stay (R91 to R93). -/
theorem benchInv_idle {s : State} (geometry : GeometryInv s.fr) (follow : FollowInv s.fr.heads s.fr.wpr s.fm)
    (timing : TimingInv s.tsm) (ranges : SweepRanges s.sc) (idle : s.sc.state = .idle) : BenchInv s :=
  ⟨geometry, follow, ⟨ranges.quota, ranges.deadline, ranges.limits, ranges.counts, fun h => absurd idle h,
    fun (h : _ ∨ _) => by rw [idle] at h; exact (h.elim SweepState.noConfusion SweepState.noConfusion),
    fun h => SweepState.noConfusion (idle.symm.trans h), ranges.extremes, ranges.totals⟩, timing⟩

/-! ## What the invariant does not look at -/

theorem benchInv_withFr {s : State} (h : BenchInv s) {fr : FrameReducer} (g : GeometryInv fr)
    (same : fr.heads = s.fr.heads ∧ fr.zoneCount = s.fr.zoneCount ∧ fr.wpr = s.fr.wpr) : BenchInv (s.withFr fr) := by
  obtain ⟨heads, zoneCount, wpr⟩ := same
  obtain ⟨-, follow, ⟨h1, h2, h3, h4, runs, h6, h7, h8, h9⟩, timing⟩ := h
  rw [← heads, ← wpr] at follow
  rw [← heads, ← zoneCount] at runs
  exact ⟨g, follow, ⟨h1, h2, h3, h4, runs, h6, h7, h8, h9⟩, timing⟩

theorem benchInv_withFm {s : State} (h : BenchInv s) {fm : FollowMonitor} (f : FollowInv s.fr.heads s.fr.wpr fm) :
    BenchInv (s.withFm fm) :=
  ⟨h.geometry, f, ⟨h.sweep.quota, h.sweep.deadline, h.sweep.limits, h.sweep.counts, h.sweep.runs, h.sweep.waits, h.sweep.measures,
    h.sweep.extremes, h.sweep.totals⟩, h.timing⟩

theorem benchInv_withTsm {s : State} (h : BenchInv s) {tsm : SpindleMonitor} (t : TimingInv tsm) : BenchInv (s.withTsm tsm) :=
  ⟨h.geometry, h.follow, ⟨h.sweep.quota, h.sweep.deadline, h.sweep.limits, h.sweep.counts, h.sweep.runs, h.sweep.waits,
    h.sweep.measures, h.sweep.extremes, h.sweep.totals⟩, t⟩

/-- The invariant looks at the Frame Reducer, the Follow Monitor, the timing, the sweep beside the result holder, and at the
presence of the two windows. -/
theorem benchInv_of_same {s t : State} (h : BenchInv s) (fr : t.fr = s.fr) (fm : t.fm = s.fm) (tsm : t.tsm = s.tsm)
    (sc : { t.sc with holder := s.sc.holder } = s.sc)
    (ring : t.tp.captureRing = s.tp.captureRing) (area : t.tp.resultArea = s.tp.resultArea) : BenchInv t := by
  obtain ⟨geometry, follow, ⟨quota, deadline, limits, counts, runs, waits, measures, extremes, totals⟩, timing⟩ := h
  rw [← sc] at quota deadline limits counts runs waits measures extremes totals
  rw [← ring, ← area, ← fr] at runs
  exact ⟨fr ▸ geometry, by rw [fr, fm]; exact follow, ⟨quota, deadline, limits, counts, runs, waits, measures, extremes, totals⟩,
    tsm ▸ timing⟩

theorem benchInv_queueBlind : QueueBlind BenchInv where
  transfer _ _ _ _ _ h := benchInv_of_same h rfl rfl rfl rfl rfl rfl
  ports _ _ h := benchInv_of_same h rfl rfl rfl rfl rfl rfl
  ra _ _ h := benchInv_of_same h rfl rfl rfl rfl rfl rfl
  dd _ _ h := benchInv_of_same h rfl rfl rfl rfl rfl rfl
  table _ _ h := benchInv_of_same h rfl rfl rfl rfl rfl rfl
  holder _ _ h := benchInv_of_same h rfl rfl rfl rfl rfl rfl
  counts _ h := benchInv_withFr h (geometryInv_counts h.geometry (Nat.zero_le _) (Nat.zero_le _)) ⟨rfl, rfl, rfl⟩

theorem benchInv_raise {s : State} (h : BenchInv s) (k : ReportKind) (d : ReportDetail) : BenchInv (s.raise k d) :=
  benchInv_queueBlind.ra s _ h

/-! ## Passes, closes and the ends of a sweep (R79 to R93) -/

section

variable {s : State}

theorem benchInv_enterAwaitHead (h : Sweeping s) : BenchInv s.enterAwaitHead := by
  obtain ⟨passNumber, passesCompleted, -⟩ := h.ranges.counts
  have waiting : Sweeping (s.withSc { s.sc with state := .awaitHead, revolutions := 0 }) :=
    h.withSc { h.ranges with counts := ⟨passNumber, passesCompleted, Nat.zero_le _⟩ } h.placed
  exact benchInv_raise (waiting.bench (fun _ => h.ranges.deadline.1) fun hm => SweepState.noConfusion hm) _ _

theorem benchInv_startPass (h : Sweeping s) : BenchInv s.startPass := by
  obtain ⟨-, passesCompleted, revolutions⟩ := h.ranges.counts
  obtain ⟨first, last, -, rest⟩ := h.placed
  have started : Sweeping (s.withSc { s.sc with passNumber := saturate Config.countLimit s.sc.passNumber 1,
                                                currentHead := s.sc.firstHead }) :=
    h.withSc { h.ranges with counts := ⟨saturate_le _ _ _, passesCompleted, revolutions⟩ } ⟨first, last, first, rest⟩
  exact benchInv_enterAwaitHead started

theorem benchInv_arm (h : Sweeping s) : BenchInv s.arm := by
  have armed : Sweeping (s.withSc { s.sc with state := .armed }) := h.withSc { h.ranges with } h.placed
  have waiting := armed.bench (fun hw => by rcases hw with hw | hw <;> exact SweepState.noConfusion hw)
    (fun hm => SweepState.noConfusion hm)
  unfold State.arm
  split
  · exact benchInv_startPass armed
  · exact waiting
  · exact waiting

/-- The next head of a pass is a configured one (R79). -/
theorem nextHead_lt {heads : Nat} (h : 1 ≤ heads ∧ heads ≤ 16) (x : Fin 16) : (nextHead heads x).val < heads := by
  have := Nat.mod_lt (x.val + 1) h.1
  have hv : (nextHead heads x).val = (x.val + 1) % heads % 16 := rfl
  rw [hv, Nat.mod_eq_of_lt (by omega)]
  exact this

theorem benchInv_advance (h : Sweeping s) : BenchInv s.advance := by
  obtain ⟨passNumber, -, revolutions⟩ := h.ranges.counts
  obtain ⟨first, last, -, rest⟩ := h.placed
  have ended (x : SweepState) (head : Fin 16) : SweepRanges { s.sc with
      state := x, currentHead := head, passesCompleted := saturate Config.countLimit s.sc.passesCompleted 1 } :=
    { h.ranges with counts := ⟨passNumber, saturate_le _ _ _, revolutions⟩ }
  have next : Sweeping (s.withSc { s.sc with currentHead := nextHead s.fr.heads s.sc.currentHead }) :=
    h.withSc { h.ranges with } ⟨first, last, nextHead_lt h.geometry.heads _, rest⟩
  unfold State.advance
  split
  · dsimp only
    split
    · exact benchInv_raise (benchInv_idle (s := s.withSc { s.sc with
        state := .idle, passesCompleted := saturate Config.countLimit s.sc.passesCompleted 1 })
        h.geometry h.follow h.timing (ended .idle s.sc.currentHead) rfl) _ _
    · exact benchInv_arm (s := s.withSc { s.sc with
        currentHead := s.sc.firstHead, passesCompleted := saturate Config.countLimit s.sc.passesCompleted 1 })
        ⟨h.geometry, h.follow, h.timing, ended s.sc.state s.sc.firstHead, first, last, first, rest⟩
  · exact benchInv_enterAwaitHead next

theorem benchInv_tryEnterResult (h : BenchInv s) : BenchInv s.tryEnterResult := by
  unfold State.tryEnterResult
  split
  · split
    · exact benchInv_queueBlind.enterResult h _
    · exact h
  · exact h

theorem benchInv_closeCell (h : Sweeping s) (cause : CloseCause) : BenchInv (s.closeCell cause) := by
  have held (table : AlignmentTable) (r : Option ResultRecord) : Sweeping ((s.withTable table).withSc { s.sc with holder := r }) :=
    ⟨h.geometry, h.follow, h.timing, { h.ranges with }, h.placed⟩
  exact benchInv_tryEnterResult (benchInv_advance (held _ _))

/-- A frame that enters the accumulator keeps pmin and pmax with the weight (R100). -/
theorem accumulate_extremes {a : Accumulator}
    (h : (a.least ≠ none ↔ 0 < a.sumW) ∧ (a.greatest ≠ none ↔ 0 < a.sumW)) (p : Int) (w : Nat) :
    ((accumulate a p w).least ≠ none ↔ 0 < (accumulate a p w).sumW) ∧
      ((accumulate a p w).greatest ≠ none ↔ 0 < (accumulate a p w).sumW) := by
  have lesser_ne : lesser a.least p ≠ none := by
    unfold lesser
    split <;> exact Option.some_ne_none _
  have greater_ne : greater a.greatest p ≠ none := by
    unfold greater
    split <;> exact Option.some_ne_none _
  simp only [accumulate]
  split
  · next hw => exact ⟨iff_of_true lesser_ne (by omega), iff_of_true greater_ne (by omega)⟩
  · next hw =>
    obtain rfl : w = 0 := by omega
    exact h

theorem benchInv_measureFrame (h : Sweeping s) (hwait : s.sc.revolutions < s.sc.deadline) (hn : s.sc.acc.n < s.sc.quota)
    (f : CompletedFrame) : BenchInv (s.measureFrame f) := by
  have measured : Sweeping (s.withSc { s.sc with
      acc := accumulate s.sc.acc f.reduction.offset (frameWeight f.amplitude s.sc.jogThreshold) }) :=
    h.withSc { h.ranges with extremes := accumulate_extremes h.ranges.extremes _ _ } h.placed
  unfold State.measureFrame
  dsimp only
  split
  · exact benchInv_closeCell measured _
  · next hquota =>
    refine measured.bench (fun _ => hwait) (fun _ => ⟨Nat.le_add_left 1 _, ?_⟩)
    have : (accumulate s.sc.acc f.reduction.offset (frameWeight f.amplitude s.sc.jogThreshold)).n = s.sc.acc.n + 1 := rfl
    show s.sc.acc.n + 1 < s.sc.quota
    omega

theorem benchInv_sweepFrame (h : BenchInv s) (f : CompletedFrame) : BenchInv (s.sweepFrame f) := by
  unfold State.sweepFrame
  dsimp only
  split
  · exact h
  · exact h
  · next hs =>
    have sweeping := sweeping_of_bench h (by rw [hs]; decide)
    split
    · have opened : Sweeping (s.withSc { s.sc with state := .measuring, acc := addMissed Accumulator.clear f.missed f.slip }) :=
        sweeping.withSc { sweeping.ranges with
          extremes := ⟨iff_of_false (fun hc => hc rfl) (Nat.lt_irrefl 0), iff_of_false (fun hc => hc rfl) (Nat.lt_irrefl 0)⟩
          totals := ⟨saturate_le _ _ _, saturate_le _ _ _⟩ } sweeping.placed
      exact benchInv_measureFrame opened (h.sweep.waits (.inl hs)) h.sweep.quota.1 f
    · exact h
  · next hs =>
    have sweeping := sweeping_of_bench h (by rw [hs]; decide)
    have waits := h.sweep.waits (.inr hs)
    have measures := h.sweep.measures hs
    have added : Sweeping (s.withSc { s.sc with acc := addMissed s.sc.acc f.missed f.slip }) :=
      sweeping.withSc { sweeping.ranges with
        extremes := sweeping.ranges.extremes, totals := ⟨saturate_le _ _ _, saturate_le _ _ _⟩ } sweeping.placed
    by_cases hhead : f.head = s.sc.currentHead
    · rw [if_pos hhead]
      split
      · exact benchInv_measureFrame added waits measures.2 f
      · exact added.bench (fun _ => waits) (fun _ => measures)
    · rw [if_neg hhead]
      split
      · exact benchInv_measureFrame sweeping waits measures.2 f
      · exact h

/-- A revolution is counted, and the cell closes at the deadline (R88, R89). -/
theorem benchInv_countRevolution (h : BenchInv s) (hs : s.sc.state = .awaitHead ∨ s.sc.state = .measuring) (cause : CloseCause) :
    BenchInv (let counted := s.withSc { s.sc with revolutions := saturate 255 s.sc.revolutions 1 }
      if s.sc.deadline ≤ counted.sc.revolutions then counted.closeCell cause else counted) := by
  have sweeping := sweeping_of_bench h (by rcases hs with hs | hs <;> rw [hs] <;> decide)
  obtain ⟨passNumber, passesCompleted, -⟩ := h.sweep.counts
  have counted : Sweeping (s.withSc { s.sc with revolutions := saturate 255 s.sc.revolutions 1 }) :=
    sweeping.withSc { sweeping.ranges with counts := ⟨passNumber, passesCompleted, saturate_le _ _ _⟩ } sweeping.placed
  dsimp only
  split
  · exact benchInv_closeCell counted cause
  · next hshort => exact counted.bench (fun _ => not_le.mp hshort) h.sweep.measures

theorem benchInv_sweepIndex (h : BenchInv s) : BenchInv s.sweepIndex := by
  unfold State.sweepIndex
  split
  · exact h
  · next hs =>
    split
    · exact benchInv_startPass (sweeping_of_bench h (by rw [hs]; decide))
    · exact h
  · next hs =>
    split
    · exact benchInv_countRevolution h (.inl hs) .noHead
    · exact h
  · next hs =>
    split
    · exact benchInv_countRevolution h (.inr hs) .short
    · exact h

theorem benchInv_sweepTimer (h : BenchInv s) : BenchInv s.sweepTimer := by
  unfold State.sweepTimer
  split
  · next hs => exact benchInv_startPass (sweeping_of_bench h (by rw [hs.1]; decide))
  · exact h

/-- The Sweep Controller enters IDLE with its record kept (R92, R93). -/
theorem benchInv_stop (h : BenchInv s) : BenchInv (s.withSc { s.sc with state := .idle }) :=
  benchInv_idle h.geometry h.follow h.timing { sweepRanges_of_inv h.sweep with } rfl

theorem benchInv_abortSweep (h : BenchInv s) (reason : AbortReason) : BenchInv (s.abortSweep reason) := by
  unfold State.abortSweep
  split
  · exact h
  · exact benchInv_raise (benchInv_stop h) _ _

theorem benchInv_haltSweep (h : BenchInv s) : BenchInv s.haltSweep := by
  unfold State.haltSweep
  split
  · exact h
  · exact benchInv_raise (benchInv_stop h) _ _

/-! ## The clocks (R44 to R60) -/

theorem benchInv_setSpindle (h : BenchInv s) {new : SpindleState}
    (hnew : new ≠ .unknown → s.tsm.timebase = .external ∧ s.tsm.nominal ≠ 0) (period : Nat) :
    BenchInv (s.setSpindle new period) := by
  have set := benchInv_withTsm h (timingInv_spindle h.timing hnew)
  unfold State.setSpindle
  dsimp only
  split
  · exact set
  · split
    · exact set
    · exact benchInv_raise set _ _
    · exact benchInv_raise set _ _
    · exact benchInv_raise set _ _

theorem benchInv_spindleCheck (h : BenchInv s) (judged : spindleJudged s.tsm = true) : BenchInv s.spindleCheck := by
  unfold State.spindleCheck
  split
  · exact benchInv_setSpindle (benchInv_withTsm h (timingInv_lastPeriod h.timing (some s.tsm.interval)))
      (fun _ => (spindleJudged_iff s.tsm).mp judged) _
  · exact benchInv_setSpindle h (fun hc => absurd rfl hc) _

theorem benchInv_settleTimeout (h : BenchInv s) : BenchInv s.settleTimeout := by
  unfold State.settleTimeout
  split
  · next due =>
    have judged := (spindleJudged_iff s.tsm).mp (Bool.and_eq_true_iff.mp due).1
    have stopped := benchInv_setSpindle (benchInv_withTsm h (timingInv_noIndex h.timing)) (new := .stopped) (fun _ => judged)
      (s.tsm.lastPeriod.getD 0)
    unfold State.timeoutExpiry
    dsimp only
    split
    · exact stopped
    · exact benchInv_abortSweep stopped _
  · exact h

theorem benchInv_indexEdge (h : BenchInv s) : BenchInv s.indexEdge := by
  have delivered := benchInv_settleTimeout (benchInv_sweepIndex h)
  unfold State.indexEdge State.recordIndex
  dsimp only
  split
  · next judged =>
    have checked := benchInv_spindleCheck delivered judged
    exact benchInv_withTsm checked (timingInv_recordIndex checked.timing)
  · exact benchInv_withTsm delivered (timingInv_recordIndex delivered.timing)

/-- Delivering an expiry to the Sweep Controller leaves the timing alone. -/
theorem sweepTimer_tsm (s : State) : s.sweepTimer.tsm = s.tsm := by
  unfold State.sweepTimer
  split <;> rfl

theorem benchInv_settleTimer (h : BenchInv s) : BenchInv s.settleTimer := by
  have delivered := benchInv_sweepTimer h
  have period := delivered.timing.timer
  unfold State.settleTimer
  split
  · unfold State.timerExpired
    dsimp only
    split
    · exact benchInv_withTsm delivered (timingInv_timer delivered.timing ⟨period.1, period.2.1⟩)
    · exact benchInv_withTsm delivered (timingInv_timer delivered.timing ⟨period.1, period.2.1⟩)
    · exact delivered
  · exact h

/-- Once it has been settled, the timer is not due (R58). -/
theorem settleTimer_not_due (h : BenchInv s) : timerDue s.settleTimer.tsm = false := by
  have period := h.timing.timer.1
  rw [timerDue_eq_false_iff]
  unfold State.settleTimer
  split
  · next due =>
    unfold State.timerExpired
    dsimp only
    rw [sweepTimer_tsm]
    split
    · exact .inl rfl
    · exact .inr period
    · next hoff => exact .inl (by rw [sweepTimer_tsm]; exact hoff)
  · next due => exact (timerDue_eq_false_iff s.tsm).mp (Bool.eq_false_of_not_eq_true due)

theorem setSpindle_tsm (s : State) (new : SpindleState) (period : Nat) :
    (s.setSpindle new period).tsm = { s.tsm with spindle := new } := by
  unfold State.setSpindle
  dsimp only
  split
  · rfl
  · split <;> rfl

theorem abortSweep_tsm (s : State) (reason : AbortReason) : (s.abortSweep reason).tsm = s.tsm := by
  unfold State.abortSweep
  split <;> rfl

/-- A timeout that is taken stops the spindle, and nothing else of the timing changes but the index time (R53). -/
theorem settleTimeout_tsm (s : State) : s.settleTimeout.tsm =
    if timeoutDue s.tsm = true then { s.tsm with lastIndex := false, spindle := .stopped } else s.tsm := by
  unfold State.settleTimeout
  split
  · unfold State.timeoutExpiry
    dsimp only
    split
    · rw [setSpindle_tsm]
      rfl
    · rw [abortSweep_tsm, setSpindle_tsm]
      rfl
  · rfl

theorem settleExpiries_not_due (h : BenchInv s) : timerDue s.settleExpiries.tsm = false := by
  rw [State.settleExpiries, settleTimeout_tsm]
  split
  · exact settleTimer_not_due h
  · exact settleTimer_not_due h

theorem benchInv_settleExpiries (h : BenchInv s) : BenchInv s.settleExpiries := benchInv_settleTimeout (benchInv_settleTimer h)

theorem benchInv_endTick (h : BenchInv s) : BenchInv s.endTick := by
  have settled := benchInv_settleExpiries h
  exact benchInv_withTsm settled (timingInv_countTick settled.timing (settleExpiries_not_due h))

theorem benchInv_clockPeriod (h : BenchInv s) : BenchInv s.clockPeriod := by
  unfold State.clockPeriod
  split
  · next hlt => exact benchInv_withTsm h (timingInv_prescaleCounter h.timing hlt)
  · exact benchInv_endTick h

theorem benchInv_loseReference (h : BenchInv s) : BenchInv s.loseReference :=
  benchInv_abortSweep (benchInv_raise (benchInv_withTsm h (timingInv_restart h.timing .fallback h.timing.prescale.1)) _ _) _

theorem benchInv_noLoss (h : BenchInv s) : BenchInv (s.withTsm { s.tsm with lossCount := 0 }) :=
  benchInv_withTsm h (timingInv_lossCount h.timing (by omega) fun _ => rfl)

theorem benchInv_srefEdge (h : BenchInv s) : BenchInv s.srefEdge := by
  unfold State.srefEdge
  split
  · exact benchInv_clockPeriod (benchInv_noLoss h)
  · exact h
  · exact h

theorem benchInv_ioscPeriod (h : BenchInv s) : BenchInv s.ioscPeriod := by
  unfold State.ioscPeriod
  split
  · next hext =>
    split
    · next hlt => exact benchInv_withTsm h (timingInv_lossCount h.timing hlt fun hne => absurd hext hne)
    · exact benchInv_loseReference h
  · exact benchInv_clockPeriod h
  · exact benchInv_clockPeriod h

theorem benchInv_ticks {t : State} (h : BenchInv s) (ticks : Ticks s t) : BenchInv t := by
  cases ticks with
  | tick => exact benchInv_endTick (benchInv_noLoss h)
  | index => exact benchInv_indexEdge h
  | timeout => exact benchInv_settleTimeout h
  | timer => exact benchInv_settleTimer h
  | loss ext => exact benchInv_loseReference (benchInv_settleExpiries h)
  | sref => exact benchInv_srefEdge h
  | idle => exact benchInv_ioscPeriod (benchInv_settleExpiries h)

/-! ## The words of a frame (R3 to R9, R18 to R20) -/

theorem benchInv_countTorn (h : BenchInv s) : BenchInv s.countTorn :=
  benchInv_raise (benchInv_withFr h (geometryInv_counts h.geometry (saturate_le _ _ _) h.geometry.counts.2) ⟨rfl, rfl, rfl⟩) _ _

theorem benchInv_countBadWedge (h : BenchInv s) : BenchInv s.countBadWedge :=
  benchInv_raise (benchInv_withFr h (geometryInv_counts h.geometry h.geometry.counts.1 (saturate_le _ _ _)) ⟨rfl, rfl, rfl⟩) _ _

theorem benchInv_noFrame (h : BenchInv s) : BenchInv (s.withFr { s.fr with frame := none }) :=
  benchInv_withFr h (geometryInv_noFrame h.geometry) ⟨rfl, rfl, rfl⟩

theorem benchInv_tearFrame (h : BenchInv s) : BenchInv s.tearFrame := benchInv_countTorn (benchInv_noFrame h)

theorem benchInv_abandonFrame (h : BenchInv s) : BenchInv s.abandonFrame := by
  unfold State.abandonFrame
  split
  · exact benchInv_tearFrame h
  · exact h

theorem benchInv_followStep (h : BenchInv s) {x : FrameSeen} (hx : x.head.val < s.fr.heads) : BenchInv (s.followStep x).1 := by
  have followed := benchInv_withFm h (followInv_followFrame h.follow s.fr.gapLimit hx)
  unfold State.followStep
  dsimp only
  split
  · exact benchInv_raise followed _ _
  · exact followed

/-- A frame completes: only a frame of a configured head reaches the Follow Monitor (R11, R20). -/
theorem benchInv_completeFrame (h : BenchInv s) {f : FrameRecord} (hf : s.fr.frame = some f) (h7 : f.expects = 7) :
    BenchInv (s.completeFrame f).1 := by
  obtain ⟨r, hr, foreign, -⟩ := (h.geometry.frame f hf).2.2 (by omega)
  unfold State.completeFrame
  simp only [hr, Option.getD_some]
  split
  · exact benchInv_noFrame h
  · next hg =>
    have swept := benchInv_sweepFrame (benchInv_followStep h (x := seenFrame f r) (not_le.mp fun hc => hg (foreign.mpr hc)))
    refine benchInv_noFrame ?_
    unfold State.completeSeen
    dsimp only
    split
    · exact benchInv_countBadWedge (swept _)
    · exact swept _

theorem benchInv_takeFrameWord (h : BenchInv s) {f : FrameRecord} (hf : s.fr.frame = some f) (w : WordWrite)
    (run : Option SlotRun) : BenchInv (takeFrameWord s w run f).state := by
  obtain ⟨low, high, -⟩ := h.geometry.frame f hf
  unfold Machine.takeFrameWord
  split
  · exact benchInv_withFr h (geometryInv_reduced h.geometry (.inl rfl) _ _ f rfl rfl) ⟨rfl, rfl, rfl⟩
  · next h6 => exact benchInv_withFr h (geometryInv_next h.geometry hf h6) ⟨rfl, rfl, rfl⟩
  · next h7 => exact benchInv_completeFrame h hf h7
  · next h5 h6 h7 =>
    have early : f.expects < 5 := by
      rcases Nat.lt_or_ge f.expects 5 with hlt | hge
      · exact hlt
      · exact absurd (show f.expects = 5 ∨ f.expects = 6 ∨ f.expects = 7 by omega) (by rintro (hc | hc | hc) <;> contradiction)
    have latched := latchFrameWord_expects w.data ⟨low, early⟩
    exact benchInv_withFr h (geometryInv_early h.geometry (by omega) (by omega)) ⟨rfl, rfl, rfl⟩

theorem benchInv_takeStray (h : BenchInv s) (w : WordWrite) (run : SlotRun) : BenchInv (takeStray s w run).state := by
  unfold Machine.takeStray
  split
  · exact h
  · exact benchInv_countTorn h

theorem benchInv_startFrame (h : BenchInv s) (slot : Nat) (w : Word) :
    BenchInv (s.withFr { s.fr with frame := some (startFrame slot w) }) :=
  benchInv_withFr h (geometryInv_early h.geometry (Nat.le_refl 1) (show 1 < 6 by omega)) ⟨rfl, rfl, rfl⟩

theorem benchInv_takeCapture (h : BenchInv s) (w : WordWrite) (prior : Option SlotRun) (slot n : Nat) :
    BenchInv (takeCapture s w prior slot n).state := by
  unfold Machine.takeCapture
  dsimp only
  split
  · split
    · exact benchInv_startFrame (benchInv_tearFrame h) slot w.data
    · exact benchInv_startFrame h slot w.data
  · split
    · exact benchInv_takeStray h w _
    · next f hf =>
      split
      · split
        · exact benchInv_takeFrameWord h hf w _
        · exact benchInv_tearFrame h
      · exact benchInv_takeStray h w _

/-! ## The directives (R22, R23, R39 to R43, R47, R56, R59, R77, R78, R160) -/

/-- While no sweep runs the sweep record asks nothing of the other blocks. -/
theorem benchInv_beside_sweep {t : State} (h : BenchInv s) (idle : s.sc.state = .idle) (sc : t.sc = s.sc)
    (geometry : GeometryInv t.fr) (follow : FollowInv t.fr.heads t.fr.wpr t.fm) (timing : TimingInv t.tsm) : BenchInv t :=
  benchInv_idle geometry follow timing (sc ▸ sweepRanges_of_inv h.sweep) (sc ▸ idle)

theorem abandonFrame_fr (s : State) : s.abandonFrame.fr =
    if s.fr.frame.isSome then { s.fr with frame := none, torn := saturate Config.countLimit s.fr.torn 1 } else s.fr := by
  unfold State.abandonFrame
  cases s.fr.frame <;> rfl

theorem abandonFrame_sc (s : State) : s.abandonFrame.sc = s.sc := by
  unfold State.abandonFrame
  split <;> rfl

theorem abandonFrame_tsm (s : State) : s.abandonFrame.tsm = s.tsm := by
  unfold State.abandonFrame
  split <;> rfl

theorem benchInv_applyWindows {o : WindowOperands} (h : BenchInv s) (idle : s.sc.state = .idle) : BenchInv (applyWindows o s) := by
  have placed := benchInv_abandonFrame (s := s.withTp { s.tp with
    captureRing := some { base := o.captureBase.toNat, slots := clamp 16 65536 o.slotCount.toNat }
    resultArea := some o.resultBase.toNat }) (benchInv_beside_sweep h idle rfl h.geometry h.follow h.timing)
  unfold applyWindows
  dsimp only
  split
  · exact benchInv_queueBlind.table _ _ placed
  · exact placed

/-- SET ZONES, taken, keeps the invariant: every first track but those it gives stays (R23). -/
theorem benchInv_applyZones {o : ZoneOperands} (h : BenchInv s) (good : ∀ m, (true, m) ∉ zoneConditions o s.fr) :
    BenchInv (applyZones o s) :=
  benchInv_abandonFrame (benchInv_withFr h { h.geometry with
    zones := zonesOk_replace h.geometry.zoneCount.1 h.geometry.zones good } ⟨rfl, rfl, rfl⟩)

/-- SET GEOMETRY, taken, keeps the invariant: every head is unseen and no frame assembles under the new geometry (R22, R43). -/
theorem benchInv_applyGeometry {o : GeometryOperands} (h : BenchInv s) (taken : (judgeGeometry o s).code.isTaken = true) :
    BenchInv (applyGeometry o s) := by
  obtain ⟨idle, heads, zones, room⟩ := judgeGeometry_taken taken
  refine benchInv_beside_sweep h idle ?_ ?_ (followInv_unsee h.follow) ?_
  · exact abandonFrame_sc _
  · have resized : GeometryInv { s.fr with
        frame := none, heads := o.heads.toNat, zoneCount := o.zones.toNat, wpr := clamp 64 1023 o.wpr.toNat
        gapLimit := clamp 1 63 o.gapLimit.toNat, zones := resizeZones s.fr.zones o.zones.toNat } :=
      { heads := heads
        zoneCount := zones
        wpr := clamp_bounds (by omega) _
        gapLimit := clamp_bounds (by omega) _
        zones := zonesOk_resize h.geometry.zoneCount.1 zones.1 h.geometry.zones room
        counts := h.geometry.counts
        frame := fun _ hf => (nomatch hf) }
    simp only [applyGeometry, State.withFm_fr, abandonFrame_fr, State.withFr_fr]
    cases hframe : s.fr.frame with
    | none => exact resized
    | some f => exact geometryInv_counts resized (saturate_le _ _ _) resized.counts.2
  · exact (congrArg TimingInv (abandonFrame_tsm _)).mpr h.timing

/-- The conditions of SWEEP, by their operands. -/
theorem lowestFailing_sweep (a b c d e f : Bool) : lowestFailing [(a, 1), (b, 2), (c, 3), (d, 4), (e, 7), (f, 8)] =
    if a = true then some 1 else if b = true then some 2 else if c = true then some 3 else if d = true then some 4
    else if e = true then some 7 else if f = true then some 8 else none := by
  revert a b c d e f
  decide

/-- The verdict of SWEEP, condition by condition (R77). -/
theorem judgeSweep_eq (o : SweepOperands) (s : State) : judgeSweep o s =
    if s.sc.state ≠ .idle then refuse .busy
    else if s.tp.captureRing = none ∨ s.tp.resultArea = none then refuse .state
    else if quantityOperand o.kind.toNat = none then badValue 1
    else if s.fr.heads ≤ o.firstHead.toNat then badValue 2
    else if s.fr.heads ≤ o.lastHead.toNat then badValue 3
    else if s.fr.zoneCount ≤ o.zone.toNat then badValue 4
    else if passesOperand o.passes = none then badValue 7
    else if triggerOperand o.trigger = none then badValue 8
    else takenMask (clampMark 5 o.quota.toNat (clamp 1 4096 o.quota.toNat)
      + clampMark 6 o.deadline.toNat (clamp 1 255 o.deadline.toNat)
      + clampMark 10 o.limit.toNat (clamp 0 511 o.limit.toNat)
      + clampMark 11 o.spreadLimit.toNat (clamp 0 511 o.spreadLimit.toNat)) := by
  simp only [judgeSweep, lowestFailing_sweep, sweepRunning_iff, Bool.or_eq_true, Option.isNone_iff_eq_none, decide_eq_true_eq]
  split_ifs <;> simp only []

/-- SWEEP, taken, finds both windows, and its heads and its zone configured (R77). -/
theorem judgeSweep_taken {o : SweepOperands} (h : (judgeSweep o s).code.isTaken = true) :
    s.sc.state = .idle ∧ (s.tp.captureRing ≠ none ∧ s.tp.resultArea ≠ none) ∧ o.firstHead.toNat < s.fr.heads ∧
      o.lastHead.toNat < s.fr.heads ∧ o.zone.toNat < s.fr.zoneCount := by
  rw [judgeSweep_eq] at h
  obtain ⟨idle, h⟩ := isTaken_of_ite h
  obtain ⟨windows, h⟩ := isTaken_of_ite h
  obtain ⟨kind, h⟩ := isTaken_of_ite h
  obtain ⟨first, h⟩ := isTaken_of_ite h
  obtain ⟨last, h⟩ := isTaken_of_ite h
  obtain ⟨zone, h⟩ := isTaken_of_ite h
  exact ⟨not_not.mp idle, not_or.mp windows, not_le.mp first, not_le.mp last, not_le.mp zone⟩

/-- SWEEP, taken, loads its operands in their ranges and starts in ARMED (R78). -/
theorem benchInv_applySweep {o : SweepOperands} (h : BenchInv s) (taken : (judgeSweep o s).code.isTaken = true) :
    BenchInv (applySweep o s) := by
  obtain ⟨idle, windows, first, last, zone⟩ := judgeSweep_taken taken
  have heads := h.geometry.heads
  have zones := h.geometry.zoneCount
  have firstVal : (Fin.ofNat 16 o.firstHead.toNat).val = o.firstHead.toNat := Nat.mod_eq_of_lt (by omega)
  have lastVal : (Fin.ofNat 16 o.lastHead.toNat).val = o.lastHead.toNat := Nat.mod_eq_of_lt (by omega)
  have zoneVal : (Fin.ofNat 32 o.zone.toNat).val = o.zone.toNat := Nat.mod_eq_of_lt (by omega)
  have ranges : SweepRanges (loadSweep o s.sc) :=
    { quota := clamp_bounds (by omega) _
      deadline := clamp_bounds (by omega) _
      limits := ⟨(clamp_bounds (by omega) _).2, (clamp_bounds (by omega) _).2, Nat.le_of_lt_succ o.jogThreshold.isLt⟩
      counts := ⟨Nat.zero_le _, Nat.zero_le _, Nat.zero_le _⟩
      extremes := h.sweep.extremes
      totals := h.sweep.totals }
  have placed : Placed (s.withSc (loadSweep o s.sc)) :=
    ⟨firstVal.trans_lt first, lastVal.trans_lt last, firstVal.trans_lt first, zoneVal.trans_lt zone, windows⟩
  exact benchInv_arm (s := (s.withSc (loadSweep o s.sc)).clearReports _) ⟨h.geometry, h.follow, h.timing, ranges, placed⟩

/-- A taken directive keeps the invariant (R148). -/
theorem benchInv_own (h : BenchInv s) (d : Directive) : BenchInv (ownDirective d s) := by
  refine ownDirective_of_taken h fun taken => ?_
  cases d
  case setWindows o => exact benchInv_applyWindows h (judgeWindows_taken taken).1.1
  case setGeometry o => exact benchInv_applyGeometry h taken
  case setZones o => exact benchInv_applyZones h (judgeZones_taken taken).2
  case setHead o =>
    refine benchInv_withFm h (followInv_changeRecords h.follow _ (fun r ok => ?_) fun r => rfl)
    obtain ⟨run, acquire, -⟩ := ok
    exact ⟨run, acquire, (clamp_bounds (by omega) _).2, (clamp_bounds (by omega) _).2, clamp_bounds (by omega) _⟩
  case setFollow o =>
    exact benchInv_withFm h { h.follow with
      settle := clamp_bounds (by omega) _, inhibit := clamp_bounds (by omega) _, acquireLimit := clamp_bounds (by omega) _ }
  case setTimebase o =>
    exact benchInv_queueBlind.ra _ _ (benchInv_withTsm h (timingInv_restart h.timing _ (clamp_bounds (by omega) _).2))
  case setIndex o => exact benchInv_queueBlind.ra _ _ (benchInv_withTsm h (timingInv_setIndex h.timing _ _ _))
  case setTimer o => exact benchInv_withTsm h (timingInv_timer h.timing (clamp_bounds (low := 1) (high := 16777215) (by omega) _))
  case setReports m => exact benchInv_of_same h rfl rfl rfl rfl rfl rfl
  case sweep o => exact benchInv_applySweep h taken
  case halt => exact benchInv_haltSweep h
  case clearHead x => exact benchInv_queueBlind.table _ _ (benchInv_withFm h (followInv_clearHead h.follow _))
  case clearHistory x =>
    exact benchInv_withFm h (followInv_changeRecords h.follow _ (fun r ok => ok) fun r => rfl)
  case setImage o => exact benchInv_of_same h rfl rfl rfl rfl rfl rfl
  case mapField o => exact benchInv_of_same h rfl rfl rfl rfl rfl rfl
  case clearMap => exact benchInv_of_same h rfl rfl rfl rfl rfl rfl
  case publish => exact benchInv_of_same h rfl rfl rfl rfl rfl rfl
  case release => exact benchInv_of_same h rfl rfl rfl rfl rfl rfl

end

theorem benchInv_wordSteps : WordSteps BenchInv where
  capture _ w run slot n h := benchInv_takeCapture h w run slot n
  dd _ _ h := benchInv_of_same h rfl rfl rfl rfl rfl rfl
  own d _ h := benchInv_own h d
  outcome _ r h _ := benchInv_queueBlind.enterOutcome h r
  image _ _ _ _ h := benchInv_of_same h rfl rfl rfl rfl rfl rfl

theorem benchInv_reset : BenchInv State.reset where
  geometry := by
    constructor <;> simp [State.reset, FrameReducer.reset]
  follow := by
    have record : ∀ x : Fin 16, FollowMonitor.reset.record x = FollowRecord.reset := fun x =>
      Vector.getElem_replicate x.isLt
    constructor <;> simp only [State.reset, record] <;>
      simp [FollowMonitor.reset, FollowRecord.reset, LastFrame.absent, FrameReducer.reset]
  sweep := by
    constructor <;> simp [State.reset, SweepController.reset, Accumulator.clear]
  timing := by
    constructor <;> simp [State.reset, SpindleMonitor.reset]

/-- Settles O59: the bench invariant, each block's part kept by that block's operations. -/
theorem everyStepKeepsTheBenchInvariant : Obligations.EveryStepKeepsTheBenchInvariant := by
  intro s t hs h
  refine step_keeps (P := BenchInv) (fun s l hs => benchInv_of_same hs rfl rfl rfl rfl rfl rfl)
    (fun _ _ => benchInv_of_same benchInv_reset rfl rfl rfl rfl rfl rfl)
    (fun s _ _ hs _ => benchInv_of_same hs rfl rfl rfl rfl rfl rfl) (fun s t hs _ act => ?_) hs h
  exact benchInv_queueBlind.acts benchInv_wordSteps (fun _ _ => benchInv_ticks) hs act

end Sys2Proof.Proofs
end

section
/-! The invariant of the insertion queue, the report ring and the stalls of the upstream port (R133 to R142, R151, R161 to R165). -/

namespace Sys2Proof.Proofs

open Sys2Proof.Machine

/-! ## The Report Arbiter by itself (R133 to R143) -/

/-- The level of the ring, the pending entries and the tally as the invariant has them. -/
structure ReportsOk (ra : ReportArbiter) : Prop where
  level : ra.Level
  enabled : ∀ k e, ra.entry k = some e → ra.enabled k = true ∧ 1 ≤ e.repeats ∧ e.repeats ≤ 255
  tally : ra.tally ≤ 65535

/-- The entry that a raise leaves has a repeat count of 1 to 255 (R135). -/
theorem raisedEntry_repeats (k : ReportKind) (d : ReportDetail) (e : Option PendingEntry) :
    1 ≤ (raisedEntry k d e).repeats ∧ (raisedEntry k d e).repeats ≤ 255 := by
  cases e with
  | none => exact ⟨Nat.le_refl 1, by show 1 ≤ 255; omega⟩
  | some e =>
    simp only [raisedEntry, saturate_eq]
    omega

theorem reportsOk_raise {ra : ReportArbiter} (h : ReportsOk ra) (k : ReportKind) (d : ReportDetail) :
    ReportsOk (ra.raise k d) where
  level := ReportArbiter.raise_level h.level k d
  enabled j e he := by
    rw [ReportArbiter.raise_entry] at he
    rw [ReportArbiter.raise_enabled]
    split at he
    · next hj =>
      obtain rfl := Option.some.inj he
      exact ⟨hj.1 ▸ hj.2, raisedEntry_repeats k d _⟩
    · exact h.enabled j e he
  tally := by
    rw [ReportArbiter.raise_tally]
    exact h.tally

/-- Entries cleared leave the others as they are (R136). -/
theorem reportsOk_clear {ra : ReportArbiter} (h : ReportsOk ra) (ks : List ReportKind) : ReportsOk (ra.clearEntries ks) := by
  have frame := ReportArbiter.clearEntries_frame ra ks
  refine ⟨frame ▸ h.level, fun j e he => ?_, frame ▸ h.tally⟩
  rw [ReportArbiter.clearEntries_entry] at he
  split at he
  · cases he
  · rw [show (ra.clearEntries ks).enabled j = ra.enabled j by rw [frame]; rfl]
    exact h.enabled j e he

/-- The enable of a kind in a mask is the bit of its code (section 11.2). -/
theorem readMask_get (m : Word) (k : ReportKind) : (readMask m)[k.index] = m.getLsbD k.code := by
  have : (readMask m)[k.index] = ((List.range 11).map fun i => m.getLsbD (i + 1))[k.index.val]'(by simp) := rfl
  rw [this, List.getElem_map, List.getElem_range]
  rfl

theorem mem_disabledKinds (m : Word) (k : ReportKind) : k ∈ disabledKinds m ↔ m.getLsbD k.code = false := by
  rw [disabledKinds, List.mem_filter, Bool.not_eq_true']
  exact and_iff_right (by cases k <;> decide)

/-- SET REPORTS clears the entries of the kinds that it disables (R137). -/
theorem reportsOk_mask {ra : ReportArbiter} (h : ReportsOk ra) (m : Word) :
    ReportsOk (ReportArbiter.clearEntries { ra with mask := readMask m } (disabledKinds m)) := by
  have frame := ReportArbiter.clearEntries_frame { ra with mask := readMask m } (disabledKinds m)
  refine ⟨frame ▸ h.level, fun j e he => ?_, frame ▸ h.tally⟩
  rw [ReportArbiter.clearEntries_entry] at he
  split at he
  · cases he
  · next hj =>
    rw [mem_disabledKinds] at hj
    refine ⟨?_, (h.enabled j e he).2⟩
    rw [frame]
    exact (readMask_get m j).trans (Bool.eq_true_of_not_eq_false hj)

/-- Marks, occupancy and ATTN changed together, the rest kept. -/
theorem reportsOk_of_level {ra r : ReportArbiter} (h : ReportsOk ra) (level : r.Level) (pend : r.pend = ra.pend)
    (mask : r.mask = ra.mask) (tally : r.tally ≤ 65535) : ReportsOk r := by
  refine ⟨level, fun k e he => ?_, tally⟩
  rw [ReportArbiter.entry, pend] at he
  rw [ReportArbiter.enabled, mask]
  exact h.enabled k e he

theorem reportsOk_free {ra : ReportArbiter} (h : ReportsOk ra) (n : Fin 64) : ReportsOk (ra.free n) := by
  have frame := ReportArbiter.free_frame ra n
  refine reportsOk_of_level h (ReportArbiter.free_level h.level n) ?_ ?_ ?_
  · rw [frame]
  · rw [frame]
  · rw [frame]
    exact h.tally

theorem reportsOk_consume {ra : ReportArbiter} (h : ReportsOk ra) (l : List (Fin 64)) : ReportsOk (ra.consume l) := by
  induction l generalizing ra with
  | nil => exact h
  | cons n l ih => exact ih (reportsOk_free h n)

/-- A grant clears its entry and occupies the slot at the write index, which was free (R138, R139). -/
theorem reportsOk_grant {ra : ReportArbiter} (h : ReportsOk ra) (k : ReportKind) (free : ra.marks[ra.writeIndex] = false) :
    ReportsOk { (ra.setEntry k none).occupy ra.writeIndex with writeIndex := ra.writeIndex + 1 } := by
  refine ⟨ReportArbiter.occupy_level (ra := ra.setEntry k none) h.level ra.writeIndex free, fun j e he => ?_, h.tally⟩
  have hcleared : (ra.setEntry k none).entry j = some e := he
  rw [ReportArbiter.setEntry_entry] at hcleared
  split at hcleared
  · cases hcleared
  · exact h.enabled j e hcleared

theorem reportsOk_insertFault {ra : ReportArbiter} (h : ReportsOk ra) (e : QueueEntry) : ReportsOk (ra.insertFault e) := by
  have counted (n : Nat) (suppressed : Bool) : ReportsOk { ra with
      tally := saturate Config.countLimit ra.tally n
      latestAddr := some e.addr, latestKind := some e.kind.insertKind, suppressed := suppressed } :=
    reportsOk_of_level h h.level rfl rfl (saturate_le _ _ _)
  unfold ReportArbiter.insertFault
  dsimp only
  split
  · exact counted _ true
  · split
    · exact counted _ ra.suppressed
    · exact reportsOk_raise (counted _ ra.suppressed) _ _

theorem reportsOk_insertOkay {ra : ReportArbiter} (h : ReportsOk ra) : ReportsOk ra.insertOkay := by
  have ended : ReportsOk { ra with suppressed := false } := reportsOk_of_level h h.level rfl rfl h.tally
  unfold ReportArbiter.insertOkay
  split
  · split
    · exact reportsOk_raise ended _ _
    · exact ended
  · exact h

/-! ## The queue with the reports -/

/-- The queue holds at most 16 records of eight words, and a record in flight is in it (R161, R162). -/
structure QueueOk (tp : TransferPath) : Prop where
  room : tp.queue.length ≤ 16
  records : ∀ e ∈ tp.queue, e.words.length = 8
  inFlight : tp.inFlight = true → tp.queue ≠ []

/-- What the invariant says of the queue and the reports, the upstream port and the holders left out. -/
def QueueCore (s : State) : Prop := QueueOk s.tp ∧ ReportsOk s.ra

theorem queueOk_enqueue {tp : TransferPath} (h : QueueOk tp) {e : QueueEntry} (words : e.words.length = 8)
    (free : 0 < freeEntries tp) : QueueOk (enqueue e tp) where
  room := by
    have := (freeEntries_pos tp).mp free
    rw [enqueue_queue, List.length_append]
    exact this
  records x hx := by
    rcases List.mem_append.mp hx with hx | hx
    · exact h.records x hx
    · exact List.mem_singleton.mp hx ▸ words
  inFlight _ := List.append_ne_nil_of_right_ne_nil _ (List.cons_ne_nil _ _)

theorem queueOk_pop {tp : TransferPath} (h : QueueOk tp) : QueueOk (popQueue tp) where
  room := by
    have := h.room
    simp only [popQueue, List.length_drop]
    omega
  records x hx := h.records x (List.mem_of_mem_drop hx)
  inFlight hf := absurd hf Bool.false_ne_true

theorem queueCore_raise {s : State} (h : QueueCore s) (k : ReportKind) (d : ReportDetail) : QueueCore (s.raise k d) :=
  ⟨h.1, reportsOk_raise h.2 k d⟩

theorem queueCore_enterResult {s : State} (h : QueueCore s) (r : ResultRecord) (can : s.resultCanEnter = true) :
    QueueCore (s.enterResult r) := by
  have free : 0 < freeEntries s.tp := of_decide_eq_true (Bool.and_eq_true_iff.mp can).1
  rw [enterResult_eq]
  refine ⟨queueOk_enqueue h.1 rfl free, reportsOk_raise ?_ _ _⟩
  split
  · exact reportsOk_raise h.2 _ _
  · exact h.2

theorem queueCore_enterOutcome {s : State} (h : QueueCore s) (r : OutcomeRecord) (free : 0 < freeEntries s.tp) :
    QueueCore (s.enterOutcome r) :=
  ⟨queueOk_enqueue h.1 rfl free, h.2⟩

theorem queueCore_sweepSteps : SweepSteps QueueCore :=
  sweepSteps_of_pieces (fun _ _ h => h) (fun _ _ h => h) (fun _ k d h => queueCore_raise h k d)
    fun _ r h can => queueCore_enterResult h r can

theorem queueCore_clockSteps : ClockSteps QueueCore where
  toSweepSteps := queueCore_sweepSteps
  tsm _ _ h := h

theorem queueCore_frameSteps : FrameSteps QueueCore where
  toSweepSteps := queueCore_sweepSteps
  fr _ _ h := h
  fm _ _ h := h

theorem queueCore_applyWindows (o : WindowOperands) {s : State} (h : QueueCore s) : QueueCore (applyWindows o s) := by
  have placed := queueCore_frameSteps.abandonFrame (s := s.withTp { s.tp with
    captureRing := some { base := o.captureBase.toNat, slots := clamp 16 65536 o.slotCount.toNat }
    resultArea := some o.resultBase.toNat }) ⟨⟨h.1.room, h.1.records, h.1.inFlight⟩, h.2⟩
  unfold applyWindows
  dsimp only
  split
  · exact placed
  · exact placed

theorem queueCore_ownerSteps : OwnerSteps QueueCore where
  toFrameSteps := queueCore_frameSteps
  table _ _ h := h
  tsm _ _ h := h
  clear _ ks h := ⟨h.1, reportsOk_clear h.2 ks⟩
  windows o _ h _ := queueCore_applyWindows o h
  reports m _ h := ⟨h.1, reportsOk_mask h.2 m⟩
  setImage _ _ h _ := h
  mapField _ _ h _ := h
  clearMap _ h _ := h
  publish _ h _ := h
  release _ h _ := h

theorem queueCore_wordSteps : WordSteps QueueCore where
  capture _ w run slot n h := queueCore_frameSteps.takeCapture h w run slot n
  dd _ _ h := h
  own d _ h := queueCore_ownerSteps.own d h
  outcome _ r h free := queueCore_enterOutcome h r free
  image _ _ _ _ h := h

theorem queueCore_portBlind : PortBlind QueueCore where
  port _ _ _ h := ⟨⟨h.1.room, h.1.records, h.1.inFlight⟩, h.2⟩
  down _ _ h := h
  up _ _ h := h

theorem queueCore_tryGrant {s : State} (h : QueueCore s) : QueueCore s.tryGrant := by
  unfold State.tryGrant
  split
  · next hopen =>
    obtain ⟨free, room, -⟩ := s.grantOpen_iff.mp hopen
    have restarted (k : ReportKind) : QueueCore (s.restartCounts k) := by
      cases k
      case insertFault => exact ⟨h.1, reportsOk_of_level h.2 h.2.level rfl rfl (Nat.zero_le _)⟩
      all_goals exact h
    have same (k : ReportKind) : (s.restartCounts k).tp = s.tp ∧ (s.restartCounts k).ra.writeIndex = s.ra.writeIndex ∧
        (s.restartCounts k).ra.marks = s.ra.marks := by
      cases k <;> exact ⟨rfl, rfl, rfl⟩
    split
    · next k _ =>
      split
      · obtain ⟨tp, index, marks⟩ := same k
        refine ⟨queueOk_enqueue (restarted k).1 rfl (by rw [tp, freeEntries_pos]; omega), ?_⟩
        have granted := reportsOk_grant (restarted k).2 k (by simp only [index, marks]; exact free)
        rw [index] at granted
        exact granted
      · exact h
    · exact h
  · exact h

theorem queueCore_issueInsert {s : State} (h : QueueCore s) : QueueCore s.issueInsert := by
  unfold State.issueInsert
  split
  · next hq => exact ⟨⟨h.1.room, h.1.records, fun _ hn => by rw [show s.tp.queue = [] from hn] at hq; cases hq⟩, h.2⟩
  · exact h
  · exact h

theorem queueCore_insertOkay {s : State} (h : QueueCore s) : QueueCore s.insertOkay := by
  unfold State.insertOkay
  split
  · exact ⟨queueOk_pop h.1, reportsOk_insertOkay h.2⟩
  · exact h

theorem queueCore_dropRecord {s : State} (h : QueueCore s) (e : QueueEntry) : QueueCore (s.dropRecord e) := by
  unfold State.dropRecord
  split
  · split <;> exact h
  · exact ⟨h.1, reportsOk_free h.2 _⟩
  · exact h

theorem queueCore_insertError {s : State} (h : QueueCore s) : QueueCore s.insertError := by
  unfold State.insertError
  split
  · next e _ =>
    obtain ⟨queue, reports⟩ := queueCore_dropRecord (s := s.withTp (popQueue s.tp)) ⟨queueOk_pop h.1, h.2⟩ e
    exact ⟨queue, reportsOk_insertFault reports e⟩
  · exact h

/-! ## What the taking of words does to the holders (R151, R165) -/

/-- The operations on a frame leave the Directive Decoder alone. -/
theorem frameSteps_dd (dd : DirectiveDecoder) : FrameSteps fun s => s.dd = dd where
  toSweepSteps := sweepSteps_of_pieces (fun _ _ h => h) (fun _ _ h => h) (fun _ _ _ h => h) fun _ r h _ => by
    rw [enterResult_eq]
    exact h
  fr _ _ h := h
  fm _ _ h := h

/-- The queue never loses a record while words are taken. -/
theorem wordSteps_queue (n : Nat) : WordSteps fun s => n ≤ s.tp.queue.length where
  capture s w run slot k h := by
    refine FrameSteps.takeCapture (P := fun s => n ≤ s.tp.queue.length) ⟨?_, fun _ _ h => h, fun _ _ h => h⟩ h w run slot k
    refine sweepSteps_of_pieces (fun _ _ h => h) (fun _ _ h => h) (fun _ _ _ h => h) fun s r h _ => ?_
    rw [enterResult_eq]
    show n ≤ (s.tp.queue ++ [_]).length
    rw [List.length_append]
    exact Nat.le_add_right_of_le h
  dd _ _ h := h
  own d s h := by
    rw [(ownDirective_keeps d s).queue]
    exact h
  outcome s r h _ := by
    show n ≤ (s.tp.queue ++ [_]).length
    rw [List.length_append]
    exact Nat.le_add_right_of_le h
  image _ _ _ _ h := h

/-- What the taking of words leaves: the write is stalled for the outcome holder exactly when that is occupied, and for the result
holder only when that is (R151, R165). -/
def StallFits (stall : Option Stall) (s : State) : Prop :=
  (s.dd.holder ≠ none ↔ stall = some .outcome) ∧ (stall = some .result → s.sc.holder ≠ none)

/-- A word that does not stall its write leaves the outcome holder empty. -/
theorem stallFits_none {s : State} (h : s.dd.holder = none) : StallFits none s :=
  ⟨iff_of_false (fun hn => hn h) (Option.some_ne_none _).symm, fun hr => (nomatch hr)⟩

theorem stallFits_takeFrameWord {s : State} (h : s.dd.holder = none) (w : WordWrite) (run : Option SlotRun) (f : FrameRecord) :
    StallFits (takeFrameWord s w run f).stall (takeFrameWord s w run f).state := by
  have dd : (takeFrameWord s w run f).state.dd = s.dd := (frameSteps_dd s.dd).takeFrameWord rfl w run f
  refine ⟨iff_of_false (fun hn => hn (dd ▸ h)) ?_, ?_⟩
  · unfold takeFrameWord
    split
    · exact (Option.some_ne_none _).symm
    · exact (Option.some_ne_none _).symm
    · dsimp only
      split
      · exact fun he => Stall.noConfusion (Option.some.inj he)
      · exact (Option.some_ne_none _).symm
    · exact (Option.some_ne_none _).symm
  · unfold takeFrameWord
    split
    · exact fun hr => (nomatch hr)
    · exact fun hr => (nomatch hr)
    · dsimp only
      split
      · next hs => exact fun _ => Option.isSome_iff_ne_none.mp (Bool.and_eq_true_iff.mp hs).2
      · exact fun hr => (nomatch hr)
    · exact fun hr => (nomatch hr)

theorem stallFits_takeCapture {s : State} (h : s.dd.holder = none) (w : WordWrite) (prior : Option SlotRun) (slot n : Nat) :
    StallFits (takeCapture s w prior slot n).stall (takeCapture s w prior slot n).state := by
  have stray (run : SlotRun) : StallFits (takeStray s w run).stall (takeStray s w run).state := by
    unfold takeStray
    split
    · exact stallFits_none h
    · exact stallFits_none h
  unfold takeCapture
  dsimp only
  split
  · split
    · exact stallFits_none h
    · exact stallFits_none h
  · split
    · exact stray _
    · split
      · split
        · exact stallFits_takeFrameWord h w _ _
        · exact stallFits_none h
      · exact stray _

/-- The go word leaves its outcome record in the holder only when the queue is full, and its write is stalled then. -/
theorem stallFits_takeGo (s : State) (w : WordWrite) : StallFits (takeGo s w).stall (takeGo s w).state := by
  simp only [takeGo]
  split
  · next hsome => exact ⟨iff_of_true (Option.isSome_iff_ne_none.mp hsome) rfl, fun hr => Stall.noConfusion (Option.some.inj hr)⟩
  · next hnone => exact stallFits_none (Option.not_isSome_iff_eq_none.mp hnone)

theorem stallFits_takeWord {s : State} (h : s.dd.holder = none) (w : WordWrite) (run : Option SlotRun) :
    StallFits (takeWord s w run).stall (takeWord s w run).state := by
  unfold takeWord
  split
  · exact stallFits_none h
  · split
    · unfold takeMailbox
      split
      · exact stallFits_none (show ((s.dd.latchWord _ w).holder = none) by unfold DirectiveDecoder.latchWord; split <;> exact h)
      · split
        · exact stallFits_takeGo s w
        · exact stallFits_none h
    · exact stallFits_takeCapture h w run _ _
    · exact stallFits_none h
    · exact stallFits_none h

/-- A record that a word overlaps stands in the queue (R164). -/
theorem holdDepth_le (q : List QueueEntry) (w : WordWrite) : holdDepth q w ≤ q.length := by
  obtain ⟨-, -, h | ⟨i, e, he, -, hi⟩⟩ := holdDepth_held q w
  · omega
  · have := (List.getElem?_eq_some_iff.mp he).1
    omega

/-- The words of a write, taken until one stalls it: what it waits for is in the queue, and its stall fits the holders. -/
theorem takeWords_fits (ws : List WordWrite) (p : WriteProgress) (s : State) (h : s.dd.holder = none)
    (hold : p.hold ≤ s.tp.queue.length) :
    (takeWords ws p s).1.hold ≤ (takeWords ws p s).2.tp.queue.length ∧
      StallFits (takeWords ws p s).1.stall (takeWords ws p s).2 := by
  induction ws generalizing p s with
  | nil => exact ⟨hold, stallFits_none h⟩
  | cons w rest ih =>
    have fits := stallFits_takeWord h w p.run
    have grown : s.tp.queue.length ≤ (takeWord s w p.run).state.tp.queue.length :=
      (wordSteps_queue s.tp.queue.length).takeWord (Nat.le_refl _) w p.run
    have held : max p.hold (holdDepth s.tp.queue w) ≤ (takeWord s w p.run).state.tp.queue.length :=
      le_trans (max_le hold (holdDepth_le s.tp.queue w)) grown
    cases hstall : (takeWord s w p.run).stall with
    | none =>
      rw [takeWords_cons _ _ _ _ hstall]
      rw [hstall] at fits
      exact ih _ _ (not_not.mp fun hn => (nomatch fits.1.mp hn)) held
    | some x =>
      rw [takeWords_stall _ _ _ _ _ hstall]
      rw [hstall] at fits
      exact ⟨held, fits⟩

/-! ## The upstream port (R151, R156, R163 to R165) -/

/-- Every write at the port waits for records that are in the queue. -/
def HoldsFit (upstream : List Upstream) (n : Nat) : Prop := ∀ p, Upstream.write p ∈ upstream → p.hold ≤ n

/-- No write of these is stalled. -/
def Unstalled (upstream : List Upstream) : Prop := ∀ p, Upstream.write p ∈ upstream → p.stall = none

/-- What the invariant says of the upstream port and the holders. -/
structure PortInv (s : State) : Prop where
  hold : HoldsFit s.tp.upstream s.tp.queue.length
  behind : Unstalled s.tp.upstream.tail
  outcome : s.dd.holder ≠ none ↔ ∃ p rest, s.tp.upstream = .write p :: rest ∧ p.stall = some .outcome
  result : ∀ p rest, s.tp.upstream = .write p :: rest → p.stall = some .result → s.sc.holder ≠ none

/-- The port as it stands when its front goes on: nothing is stalled, and the outcome holder is empty. -/
structure PortReady (s : State) : Prop where
  hold : HoldsFit s.tp.upstream s.tp.queue.length
  stall : Unstalled s.tp.upstream
  holder : s.dd.holder = none

theorem queueInv_iff (s : State) : QueueInv s ↔ QueueCore s ∧ PortInv s := by
  constructor
  · rintro ⟨room, records, inFlight, occupancy, attn, enabled, tally, hold, behind, outcome, result⟩
    exact ⟨⟨⟨room, records, inFlight⟩, ⟨occupancy, attn⟩, enabled, tally⟩, hold, behind, outcome, result⟩
  · rintro ⟨⟨⟨room, records, inFlight⟩, ⟨occupancy, attn⟩, enabled, tally⟩, hold, behind, outcome, result⟩
    exact ⟨room, records, inFlight, occupancy, attn, enabled, tally, hold, behind, outcome, result⟩

theorem portReady_inv {s : State} (h : PortReady s) : PortInv s where
  hold := h.hold
  behind p hp := h.stall p (List.mem_of_mem_tail hp)
  outcome := iff_of_false (fun hn => hn h.holder) fun ⟨p, rest, hu, hs⟩ => by
    rw [h.stall p (hu ▸ List.mem_cons_self)] at hs
    cases hs
  result p rest hu hs := by
    rw [h.stall p (hu ▸ List.mem_cons_self)] at hs
    cases hs

/-- With the outcome holder empty and no write stalled for the result holder nothing at the port is stalled. -/
theorem portInv_ready {s : State} (h : PortInv s) (holder : s.dd.holder = none)
    (front : ∀ p rest, s.tp.upstream = .write p :: rest → p.stall ≠ some .result) : PortReady s where
  hold := h.hold
  stall p hp := by
    obtain ⟨x, rest, hu⟩ := List.exists_cons_of_ne_nil (List.ne_nil_of_mem hp)
    have behind := h.behind
    rw [hu] at hp behind
    rcases List.mem_cons.mp hp with rfl | hp
    · cases hs : p.stall with
      | none => rfl
      | some x =>
        cases x
        · exact absurd hs (front p rest hu)
        · exact absurd holder (h.outcome.mpr ⟨p, rest, hu, hs⟩)
    · exact behind p hp
  holder := holder

/-- The port with a write in front whose words have been taken as far as they can be. -/
theorem portInv_front {s : State} {p : WriteProgress} {rest : List Upstream} (hold : p.hold ≤ s.tp.queue.length)
    (holds : HoldsFit rest s.tp.queue.length) (behind : Unstalled rest) (fits : StallFits p.stall s)
    (hu : s.tp.upstream = .write p :: rest) : PortInv s where
  hold q hq := by
    rw [hu] at hq
    rcases List.mem_cons.mp hq with hq | hq
    · obtain rfl := Upstream.write.inj hq
      exact hold
    · exact holds q hq
  behind := by
    rw [hu]
    exact behind
  outcome := fits.1.trans ⟨fun hs => ⟨p, rest, hu, hs⟩, fun ⟨q, l, hq, hs⟩ => by
    obtain rfl := Upstream.write.inj (List.cons.inj (hu.symm.trans hq)).1
    exact hs⟩
  result q l hq hs := by
    obtain rfl := Upstream.write.inj (List.cons.inj (hu.symm.trans hq)).1
    exact fits.2 hs

theorem portInv_settleWrite {s : State} {p : WriteProgress} {rest : List Upstream} (hold : p.hold ≤ s.tp.queue.length)
    (holds : HoldsFit rest s.tp.queue.length) (behind : Unstalled rest) (fits : StallFits p.stall s) :
    PortInv (settleWrite p rest s) := by
  unfold settleWrite
  split
  · next hpass =>
    have stall : p.stall = none := Option.isNone_iff_eq_none.mp (Bool.and_eq_true_iff.mp hpass).1
    rw [stall] at fits
    exact portReady_inv ⟨holds, behind, not_not.mp fun hn => (nomatch fits.1.mp hn)⟩
  · exact portInv_front (s := s.withTp _) hold holds behind fits rfl

theorem holdsFit_mono {l : List Upstream} {m n : Nat} (h : HoldsFit l m) (hmn : m ≤ n) : HoldsFit l n :=
  fun p hp => le_trans (h p hp) hmn

/-- The front of a port with nothing stalled goes on. -/
theorem portInv_serveFront {s : State} (h : PortReady s) : PortInv s.serveFront := by
  unfold State.serveFront
  split
  · exact portReady_inv h
  · next b rest hu =>
    have holds : HoldsFit rest s.tp.queue.length := fun p hp => h.hold p (hu ▸ List.mem_cons_of_mem _ hp)
    have behind : Unstalled rest := fun p hp => h.stall p (hu ▸ List.mem_cons_of_mem _ hp)
    unfold advanceRead
    split
    · rw [← hu]
      exact portReady_inv h
    · exact portReady_inv ⟨holds, behind, h.holder⟩
  · next p rest hu =>
    have holds : HoldsFit rest s.tp.queue.length := fun p hp => h.hold p (hu ▸ List.mem_cons_of_mem _ hp)
    have behind : Unstalled rest := fun p hp => h.stall p (hu ▸ List.mem_cons_of_mem _ hp)
    have hold : p.resumed.hold ≤ s.tp.queue.length := by
      rw [resumed_eq]
      exact h.hold p (hu ▸ List.mem_cons_self)
    split
    · exact portReady_inv h
    · have fits := takeWords_fits p.todo p.resumed (s.withTp { s.tp with upstream := [] }) h.holder hold
      have grown : s.tp.queue.length ≤ (takeWords p.todo p.resumed (s.withTp { s.tp with upstream := [] })).2.tp.queue.length :=
        (wordSteps_queue s.tp.queue.length).takeWords _ _ (Nat.le_refl _)
      exact portInv_settleWrite fits.1 (holdsFit_mono holds grown) behind fits.2

theorem queueInv_serveFront {s : State} (core : QueueCore s) (ready : PortReady s) : QueueInv s.serveFront :=
  (queueInv_iff _).mpr ⟨queueCore_portBlind.serveFront queueCore_wordSteps core, portInv_serveFront ready⟩

/-- What the port may be beside when its invariant stays: the queue may grow, and an occupied result holder stays occupied. -/
structure PortKept (s t : State) : Prop where
  upstream : t.tp.upstream = s.tp.upstream
  dd : t.dd.holder = s.dd.holder
  queue : s.tp.queue.length ≤ t.tp.queue.length

theorem portInv_kept {s t : State} (h : PortInv s) (k : PortKept s t) (holder : s.sc.holder ≠ none → t.sc.holder ≠ none) :
    PortInv t := by
  obtain ⟨upstream, dd, queue⟩ := k
  obtain ⟨hold, behind, outcome, result⟩ := h
  rw [← upstream] at hold behind outcome result
  rw [← dd] at outcome
  exact ⟨holdsFit_mono hold queue, behind, outcome, fun p rest hu hs => holder (result p rest hu hs)⟩

/-- A step of the clocks keeps the port: a cell closes only while the result holder is empty (R84, R89). -/
theorem portKept_clockSteps (s : State) :
    ClockSteps fun t => PortKept s t ∧ (s.sc.holder ≠ none → t.sc.holder ≠ none) where
  sc t x h hx := ⟨⟨h.1.upstream, h.1.dd, h.1.queue⟩, fun hs => by
    show x.holder ≠ none
    rw [hx]
    exact h.2 hs⟩
  raise _ _ _ h := ⟨⟨h.1.upstream, h.1.dd, h.1.queue⟩, h.2⟩
  close t cause hn h := by
    refine ⟨?_, fun hs => absurd hn (h.2 hs)⟩
    refine SweepSteps.close (P := PortKept s) (sweepSteps_of_pieces (fun _ _ h => ⟨h.upstream, h.dd, h.queue⟩)
      (fun _ _ h => ⟨h.upstream, h.dd, h.queue⟩) (fun _ _ _ h => ⟨h.upstream, h.dd, h.queue⟩) fun u r h _ => ?_) t cause hn h.1
    rw [enterResult_eq]
    refine ⟨h.upstream, h.dd, ?_⟩
    show s.tp.queue.length ≤ (u.tp.queue ++ [_]).length
    rw [List.length_append]
    exact Nat.le_add_right_of_le h.queue
  tsm _ _ h := ⟨⟨h.1.upstream, h.1.dd, h.1.queue⟩, h.2⟩

theorem queueInv_ticks {s t : State} (h : QueueInv s) (ticks : Ticks s t) : QueueInv t := by
  obtain ⟨core, port⟩ := (queueInv_iff s).mp h
  obtain ⟨kept, holder⟩ := (portKept_clockSteps s).ticks ⟨⟨rfl, rfl, Nat.le_refl _⟩, id⟩ ticks
  exact (queueInv_iff t).mpr ⟨queueCore_clockSteps.ticks core ticks, portInv_kept port kept holder⟩

/-- A transaction arrives at the port: at a free one it goes on at once, behind another it waits (R156). -/
theorem queueInv_arrive {s : State} (h : QueueInv s) {x : Upstream} (hx : Arrives x) : QueueInv (s.arrive x) := by
  obtain ⟨core, port⟩ := (queueInv_iff s).mp h
  have fresh : ∀ p, x = Upstream.write p → p.hold = 0 ∧ p.stall = none := by
    rintro p rfl
    cases hx
    exact ⟨rfl, rfl⟩
  unfold State.arrive
  split
  · next hu =>
    have single : ∀ p, Upstream.write p ∈ [x] → x = Upstream.write p := fun p hp => (List.mem_singleton.mp hp).symm
    refine queueInv_serveFront (queueCore_portBlind.port s [x] s.tp.outstanding core) ⟨fun p hp => ?_, fun p hp => ?_, ?_⟩
    · exact (fresh p (single p hp)).1 ▸ Nat.zero_le _
    · exact (fresh p (single p hp)).2
    · exact not_not.mp fun hn => by
        obtain ⟨p, rest, hc, -⟩ := port.outcome.mp hn
        rw [hu] at hc
        cases hc
  · next front rest hu =>
    obtain ⟨hold, behind, outcome, result⟩ := port
    have mem : ∀ p, Upstream.write p ∈ s.tp.upstream ++ [x] → Upstream.write p ∈ s.tp.upstream ∨ x = Upstream.write p :=
      fun p hp => (List.mem_append.mp hp).imp_right fun he => (List.mem_singleton.mp he).symm
    refine (queueInv_iff _).mpr ⟨queueCore_portBlind.port s _ s.tp.outstanding core, fun p hp => ?_, fun p hp => ?_, ?_, ?_⟩
    · rcases mem p hp with hp | hp
      · exact hold p hp
      · exact (fresh p hp).1 ▸ Nat.zero_le _
    · have hp' : Upstream.write p ∈ rest ++ [x] := by
        simp only [State.withTp_tp, hu, List.cons_append, List.tail_cons] at hp
        exact hp
      rw [hu] at behind
      rcases List.mem_append.mp hp' with hp | hp
      · exact behind p hp
      · exact (fresh p (List.mem_singleton.mp hp).symm).2
    · refine outcome.trans (exists_congr fun p => ⟨fun ⟨l, hl, hs⟩ => ⟨l ++ [x], ?_, hs⟩, fun ⟨l, hl, hs⟩ => ⟨rest, ?_, hs⟩⟩)
      · simp only [State.withTp_tp, hl, List.cons_append]
      · simp only [State.withTp_tp, hu, List.cons_append, List.cons.injEq] at hl
        rw [hu, hl.1]
    · intro p l hl hs
      simp only [State.withTp_tp, hu, List.cons_append, List.cons.injEq] at hl
      exact result p rest (by rw [hu, hl.1]) hs

/-- The front write, no longer stalled, goes on. -/
theorem queueInv_unstalled {s : State} (core : QueueCore s) (hold : HoldsFit s.tp.upstream s.tp.queue.length)
    (behind : Unstalled s.tp.upstream.tail) (holder : s.dd.holder = none) {p : WriteProgress} {rest : List Upstream}
    (hu : s.tp.upstream = .write p :: rest) :
    QueueInv (s.withTp { s.tp with upstream := .write { p with stall := none } :: rest }).serveFront := by
  rw [hu] at hold behind
  refine queueInv_serveFront (queueCore_portBlind.port s _ s.tp.outstanding core) ⟨fun q hq => ?_, fun q hq => ?_, holder⟩
  · rcases List.mem_cons.mp hq with hq | hq
    · obtain rfl := Upstream.write.inj hq
      exact hold p List.mem_cons_self
    · exact hold q (List.mem_cons_of_mem _ hq)
  · rcases List.mem_cons.mp hq with hq | hq
    · obtain rfl := Upstream.write.inj hq
      rfl
    · exact behind q hq

theorem length_le_enqueue (e : QueueEntry) (tp : TransferPath) : tp.queue.length ≤ (enqueue e tp).queue.length := by
  rw [enqueue_queue, List.length_append]
  exact Nat.le_add_right _ _

/-- The waiting outcome record enters, and the go word stalled for it goes on (R151, R165). -/
theorem queueInv_outcomeEntry {s : State} (h : QueueInv s) {r : OutcomeRecord} (held : s.dd.holder = some r)
    (free : 0 < freeEntries s.tp) : QueueInv ((s.enterOutcome r).endStall .outcome) := by
  obtain ⟨core, port⟩ := (queueInv_iff s).mp h
  obtain ⟨p, rest, hu, hs⟩ := port.outcome.mp (by rw [held]; exact Option.some_ne_none r)
  have hu' : (s.enterOutcome r).tp.upstream = .write p :: rest := hu
  unfold State.endStall
  rw [hu']
  dsimp only
  rw [if_pos hs]
  exact queueInv_unstalled (queueCore_enterOutcome core r free) (holdsFit_mono port.hold (length_le_enqueue _ _)) port.behind rfl hu'

/-- The waiting result record enters, and a word 7 stalled for it goes on (R108, R165). -/
theorem queueInv_resultEntry {s : State} (h : QueueInv s) {r : ResultRecord} (can : s.resultCanEnter = true) :
    QueueInv ((s.enterResult r).endStall .result) := by
  obtain ⟨core, port⟩ := (queueInv_iff s).mp h
  have holder : s.dd.holder = none := Option.isNone_iff_eq_none.mp (Bool.and_eq_true_iff.mp can).2
  have entered := queueCore_enterResult core r can
  have kept : (s.enterResult r).tp.upstream = s.tp.upstream ∧ (s.enterResult r).dd = s.dd ∧
      s.tp.queue.length ≤ (s.enterResult r).tp.queue.length := by
    rw [enterResult_eq]
    exact ⟨rfl, rfl, length_le_enqueue _ _⟩
  obtain ⟨upstream, dd, queue⟩ := kept
  have hold := upstream ▸ holdsFit_mono port.hold queue
  have behind : Unstalled (s.enterResult r).tp.upstream.tail := upstream ▸ port.behind
  have holder' : (s.enterResult r).dd.holder = none := dd ▸ holder
  -- a write that is not stalled for the result holder is not stalled at all
  have quiet : (∀ p rest, s.tp.upstream = .write p :: rest → p.stall ≠ some .result) → QueueInv (s.enterResult r) := fun front =>
    (queueInv_iff _).mpr ⟨entered, portReady_inv ⟨hold, upstream ▸ (portInv_ready port holder front).stall, holder'⟩⟩
  unfold State.endStall
  split
  · next p rest hu =>
    split
    · exact queueInv_unstalled entered hold behind holder' hu
    · next hs =>
      refine quiet fun q l hq => ?_
      obtain rfl := Upstream.write.inj (List.cons.inj (hu.symm.trans (upstream.trans hq))).1
      exact hs
  · next hu => exact quiet fun q l hq => by cases (upstream ▸ hu).symm.trans hq
  · next hu => exact quiet fun q l hq => by cases (upstream ▸ hu).symm.trans hq

/-- A record leaves the front of the queue, and every write at the port waits for one record less (R162, R164). -/
theorem portInv_pop {s : State} (h : PortInv s) : PortInv (s.withTp (popQueue s.tp)) := by
  have mem : ∀ (l : List Upstream) p, Upstream.write p ∈ l.map lowerHold →
      ∃ q, Upstream.write q ∈ l ∧ p = { q with hold := q.hold - 1 } := fun l p hp => by
    obtain ⟨x, hx, he⟩ := List.mem_map.mp hp
    cases x with
    | write q => exact ⟨q, hx, (Upstream.write.inj he).symm⟩
    | read b => cases he
  have front : ∀ p rest, (popQueue s.tp).upstream = .write p :: rest →
      ∃ q l, s.tp.upstream = .write q :: l ∧ p.stall = q.stall := fun p rest hp => by
    obtain ⟨x, l, hu, hx, -⟩ := List.map_eq_cons_iff.mp hp
    cases x with
    | write q => exact ⟨q, l, hu, by rw [← Upstream.write.inj hx]⟩
    | read b => cases hx
  refine ⟨fun p hp => ?_, fun p hp => ?_, ?_, fun p rest hp hs => ?_⟩
  · obtain ⟨q, hq, rfl⟩ := mem _ p hp
    have := h.hold q hq
    simp only [State.withTp_tp, popQueue, List.length_drop]
    omega
  · obtain ⟨q, hq, rfl⟩ := mem s.tp.upstream.tail p (by rw [List.map_tail]; exact hp)
    exact h.behind q hq
  · refine h.outcome.trans ⟨fun ⟨q, l, hu, hs⟩ => ⟨{ q with hold := q.hold - 1 }, l.map lowerHold, ?_, hs⟩, fun ⟨p, rest, hp, hs⟩ => ?_⟩
    · simp only [State.withTp_tp, popQueue, hu, List.map_cons, lowerHold]
    · obtain ⟨q, l, hu, he⟩ := front p rest hp
      exact ⟨q, l, hu, he ▸ hs⟩
  · obtain ⟨q, l, hu, he⟩ := front p rest hp
    exact h.result q l hu (he ▸ hs)

/-- Every action of the part keeps the invariant. -/
theorem queueInv_acts {s t : State} (h : QueueInv s) (act : Acts s t) : QueueInv t := by
  obtain ⟨core, port⟩ := (queueInv_iff s).mp h
  have beside {u : State} (hcore : QueueCore u) (kept : PortKept s u) (holder : u.sc.holder = s.sc.holder) : QueueInv u :=
    (queueInv_iff u).mpr ⟨hcore, portInv_kept port kept fun hn => holder ▸ hn⟩
  cases act with
  | nothing => exact h
  | arrive x hx => exact queueInv_arrive h hx
  | answerRead k r data =>
    have same : PortKept s (s.answerRead k r data) ∧ (s.answerRead k r data).sc.holder = s.sc.holder := by
      unfold State.answerRead
      split
      · split <;> exact ⟨⟨rfl, rfl, Nat.le_refl _⟩, rfl⟩
      · exact ⟨⟨rfl, rfl, Nat.le_refl _⟩, rfl⟩
      · exact ⟨⟨rfl, rfl, Nat.le_refl _⟩, rfl⟩
    exact beside (queueCore_portBlind.answerRead (fun _ _ h => h) (fun s l h => ⟨h.1, reportsOk_consume h.2 l⟩) core k r data)
      same.1 same.2
  | answerWrite k r =>
    have same : PortKept s (s.answerWrite k r) ∧ (s.answerWrite k r).sc.holder = s.sc.holder := by
      unfold State.answerWrite
      split <;> exact ⟨⟨rfl, rfl, Nat.le_refl _⟩, rfl⟩
    exact beside (queueCore_portBlind.answerWrite core k r) same.1 same.2
  | serveFront =>
    by_cases hstall : ∃ p rest x, s.tp.upstream = .write p :: rest ∧ p.stall = some x
    · obtain ⟨p, rest, x, hu, hs⟩ := hstall
      have : s.serveFront = s := by
        unfold State.serveFront
        rw [hu]
        dsimp only
        rw [hs]
      rw [this]
      exact h
    · refine queueInv_serveFront core (portInv_ready port ?_ fun p rest hu hs => hstall ⟨p, rest, _, hu, hs⟩)
      exact not_not.mp fun hn => by
        obtain ⟨p, rest, hu, hs⟩ := port.outcome.mp hn
        exact hstall ⟨p, rest, _, hu, hs⟩
  | outcomeEntry r held room => exact queueInv_outcomeEntry h held room
  | resultEntry r held room => exact queueInv_resultEntry h room
  | grant =>
    refine beside (queueCore_tryGrant core) ?_ ?_
    · unfold State.tryGrant
      split
      · split
        · next k _ =>
          split
          · cases k <;> exact ⟨rfl, rfl, length_le_enqueue _ _⟩
          · exact ⟨rfl, rfl, Nat.le_refl _⟩
        · exact ⟨rfl, rfl, Nat.le_refl _⟩
      · exact ⟨rfl, rfl, Nat.le_refl _⟩
    · unfold State.tryGrant
      split
      · split
        · next k _ =>
          split
          · cases k <;> rfl
          · rfl
        · rfl
      · rfl
  | issue =>
    have same : PortKept s s.issueInsert ∧ s.issueInsert.sc.holder = s.sc.holder := by
      unfold State.issueInsert
      split <;> exact ⟨⟨rfl, rfl, Nat.le_refl _⟩, rfl⟩
    exact beside (queueCore_issueInsert core) same.1 same.2
  | okay =>
    refine (queueInv_iff _).mpr ⟨queueCore_insertOkay core, ?_⟩
    unfold State.insertOkay
    split
    · exact portInv_kept (portInv_pop port) ⟨rfl, rfl, Nat.le_refl _⟩ id
    · exact port
  | error =>
    refine (queueInv_iff _).mpr ⟨queueCore_insertError core, ?_⟩
    unfold State.insertError
    split
    · next e _ =>
      have same : PortKept (s.withTp (popQueue s.tp)) ((s.withTp (popQueue s.tp)).dropRecord e) ∧
          ((s.withTp (popQueue s.tp)).dropRecord e).sc.holder = s.sc.holder := by
        unfold State.dropRecord
        split
        · split <;> exact ⟨⟨rfl, rfl, Nat.le_refl _⟩, rfl⟩
        · exact ⟨⟨rfl, rfl, Nat.le_refl _⟩, rfl⟩
        · exact ⟨⟨rfl, rfl, Nat.le_refl _⟩, rfl⟩
      obtain ⟨⟨upstream, dd, queue⟩, holder⟩ := same
      exact portInv_kept (portInv_pop port) ⟨upstream, dd, queue⟩ fun hn => (holder ▸ hn : _ ≠ none)
    · exact port
  | clock ticks => exact queueInv_ticks h ticks

theorem queueInv_of_same {s t : State} (h : QueueInv s) (queue : t.tp.queue = s.tp.queue) (inFlight : t.tp.inFlight = s.tp.inFlight)
    (upstream : t.tp.upstream = s.tp.upstream) (ra : t.ra = s.ra) (dd : t.dd = s.dd) (sc : t.sc = s.sc) : QueueInv t := by
  obtain ⟨⟨⟨room, records, flying⟩, reports⟩, port⟩ := (queueInv_iff s).mp h
  refine (queueInv_iff t).mpr ⟨⟨⟨queue ▸ room, queue ▸ records, by rw [queue, inFlight]; exact flying⟩, ra ▸ reports⟩,
    portInv_kept port ⟨upstream, by rw [dd], by rw [queue]⟩ fun hn => by rw [sc]; exact hn⟩

theorem queueInv_reset : QueueInv State.reset := by
  have none_pends : ∀ k : ReportKind, State.reset.ra.entry k = none := fun k => Vector.getElem_replicate k.index.isLt
  constructor <;> simp [State.reset, TransferPath.reset, DirectiveDecoder.reset, SweepController.reset]
  case occupancy => exact (countMarks_replicate 64).symm
  case attn => rfl
  case enabled =>
    intro k e he
    exact absurd ((none_pends k).symm.trans he) (Option.some_ne_none e).symm
  case tally => exact Nat.zero_le _

/-- Settles O56: the queue and the reports by the pieces of every operation, the stalls by what the taking of words leaves. -/
theorem everyStepKeepsTheQueueInvariant : Obligations.EveryStepKeepsTheQueueInvariant := by
  intro s t hs h
  exact step_keeps (P := QueueInv) (fun s l hs => queueInv_of_same hs rfl rfl rfl rfl rfl rfl)
    (fun _ _ => queueInv_of_same queueInv_reset rfl rfl rfl rfl rfl rfl)
    (fun s _ _ hs _ => queueInv_of_same hs rfl rfl rfl rfl rfl rfl) (fun s t hs _ act => queueInv_acts hs act) hs h

/-- Settles O60: device reset meets each invariant, so it meets them all. -/
theorem resetMeetsTheInvariants : Obligations.ResetMeetsTheInvariants :=
  ⟨queueInv_reset, windowInv_reset, imageInv_reset, benchInv_reset⟩

end Sys2Proof.Proofs
end

section
/-! The directives of the Timebase and Spindle Monitor, of the Follow Monitor, of the Report Arbiter and of the Sweep Controller: what
each does when it is taken, and the verdict it is refused with (chapter 9). -/

namespace Sys2Proof.Proofs

open Sys2Proof.Machine

/-! ## A whole directive, taken or refused (R148) -/

/-- A command that carries a directive writes it whole. -/
theorem exec_directive {c : Instr} {d : Directive} {s : State} (high : s.resetLow = false) (hc : c.directive = some d) :
    exec c s = .next (s.writeDirective d) := by
  cases c <;> cases hc <;> exact congrArg Host.Outcome.next (whenRunning_high s _ high)

/-- No owner looks at the mailbox latch. -/
theorem judgeDirective_latched (d : Directive) (s : State) : judgeDirective d (latched d s) = judgeDirective d s := by
  cases d <;> rfl

section

variable {b : Nat} {s : State} {c : Instr} {d : Directive} {v : Verdict}

/-- A refused directive changes the Directive Decoder alone. -/
theorem exec_refused {code detail : Nat} (h : DirectiveReady b s) (hc : c.directive = some d) (hj : judgeDirective d s = v)
    (hv : v.code.isTaken = false ∧ v.code.code = code ∧ v.detail = detail) :
    exec c s = .next (answered b d code detail s) := by
  obtain ⟨⟨high, -⟩, -⟩ := h.1
  obtain ⟨refused, rfl, rfl⟩ := hv
  rw [exec_directive high hc, writeDirective_refused h d ((judgeDirective_latched d s).trans hj) refused]

/-- The verdict's first condition refuses the directive; the others decide once it fails (R147). -/
theorem exec_refusedIf {p : Prop} [Decidable p] {w : Verdict} {t : State} {code detail : Nat} (h : DirectiveReady b s)
    (hc : c.directive = some d) (hj : judgeDirective d s = if p then v else w)
    (hv : v.code.isTaken = false ∧ v.code.code = code ∧ v.detail = detail)
    (rest : ¬ p → judgeDirective d s = w → exec c s = .next t) :
    exec c s = .next (if p then answered b d code detail s else t) := by
  by_cases hp : p
  · rw [if_pos hp] at hj ⊢
    exact exec_refused h hc hj hv
  · rw [if_neg hp] at hj ⊢
    exact rest hp hj

/-- The same where the obligation names the state that is left. -/
theorem exec_answeredIf {p : Prop} [Decidable p] {w : Verdict} {Q : State → Prop} {code detail : Nat} (h : DirectiveReady b s)
    (hc : c.directive = some d) (hj : judgeDirective d s = if p then v else w)
    (hv : v.code.isTaken = false ∧ v.code.code = code ∧ v.detail = detail)
    (rest : ¬ p → judgeDirective d s = w → ∃ t, exec c s = .next t ∧ Q t) :
    ∃ t, exec c s = .next t ∧ if p then t = answered b d code detail s else Q t := by
  by_cases hp : p
  · rw [if_pos hp] at hj
    exact ⟨_, exec_refused h hc hj hv, (if_pos hp).mpr rfl⟩
  · rw [if_neg hp] at hj
    obtain ⟨t, next, left⟩ := rest hp hj
    exact ⟨t, next, (if_neg hp).mpr left⟩

/-- A taken directive is applied; beside its effect it leaves what every answered directive leaves. -/
theorem exec_taken (h : DirectiveReady b s) (hc : c.directive = some d) (hj : judgeDirective d s = v)
    (hv : v.code.isTaken = true) {t : State} (effect : applyDirective d (latched d s) = t) : exec c s = .next
      { t with
        dd := (answered b d v.code.code v.detail s).dd
        tp := { (answered b d v.code.code v.detail s).tp with
          captureRing := t.tp.captureRing
          resultArea := t.tp.resultArea }
        ports := (answered b d v.code.code v.detail s).ports } := by
  subst effect
  obtain ⟨⟨high, -⟩, hu⟩ := h.1
  have keeps := applyDirective_keeps d (latched d s)
  rw [exec_directive high hc, writeDirective_taken h d ((judgeDirective_latched d s).trans hj) hv]
  congr 2
  simp only [answered, keeps.controlBase, keeps.inFlight, hu]
  rfl

/-- The same for a directive that leaves the windows alone. -/
theorem exec_taken_beside (h : DirectiveReady b s) (hc : c.directive = some d) (hj : judgeDirective d s = v)
    (hv : v.code.isTaken = true) {t : State} (effect : applyDirective d (latched d s) = t) (htp : t.tp = s.tp) :
    exec c s = .next
      { t with
        dd := (answered b d v.code.code v.detail s).dd
        tp := (answered b d v.code.code v.detail s).tp
        ports := (answered b d v.code.code v.detail s).ports } := by
  rw [exec_taken h hc hj hv effect, htp]
  rfl

end

/-! ## Codes and masks of a taken directive (R149, R150) -/

theorem takenMask_code (m : Nat) : (takenMask m).code.code = if m = 0 then 1 else 2 := by
  unfold takenMask
  split <;> rfl

theorem takenMask_detail (m : Nat) : (takenMask m).detail = m := by
  unfold takenMask
  split
  · next h => exact h.symm
  · rfl

/-- The answer of a directive that is taken with a mask of clamped operands. -/
theorem answered_takenMask (b : Nat) (d : Directive) (m : Nat) (s : State) :
    answered b d (takenMask m).code.code (takenMask m).detail s = answered b d (if m = 0 then 1 else 2) m s := by
  rw [takenMask_code, takenMask_detail]

/-! ## SET TIMER (R59) -/

theorem timerModeOperand_eq (x : BitVec 2) : timerModeOperand x =
    if x = 3 then none else some (if x = 0 then .off else if x = 1 then .oneShot else .periodic) := by
  revert x
  decide

/-- Settles O2: the mode code decides whether SET TIMER is taken. -/
theorem setTimerSetsTheTimerRecord : Obligations.SetTimerSetsTheTimerRecord := by
  intro b s o h
  have mode := timerModeOperand_eq o.mode
  by_cases h3 : o.mode = 3
  · rw [if_pos h3] at mode ⊢
    exact exec_refused h rfl (v := badValue 1) (by simp only [judgeDirective, judgeTimer, mode]) ⟨rfl, rfl, rfl⟩
  · rw [if_neg h3] at mode ⊢
    rw [exec_taken_beside h rfl (v := takenMask (clampMark 2 o.period.toNat (clamp 1 16777215 o.period.toNat)))
      (by simp only [judgeDirective, judgeTimer, mode]) (takenMask_isTaken _) rfl rfl, answered_takenMask]
    simp only [applyDirective, applyTimer, mode, Option.getD_some]
    have code : (if clampMark 2 o.period.toNat (clamp 1 16777215 o.period.toNat) = 0 then 1 else 2) =
        if o.period.toNat = clamp 1 16777215 o.period.toNat then 1 else 2 := by
      simp only [clampMark_eq_zero]
    rw [code]
    rfl

/-! ## SET TIMEBASE and SET INDEX (R47, R56) -/

theorem timebaseSource_eq (x : BitVec 2) : timebaseSource x =
    if 2 ≤ x.toNat then none else some (if x = 1 then .external else .internal) := by
  revert x
  decide

theorem indexEdgeOperand_eq (x : BitVec 2) : indexEdgeOperand x =
    if 2 ≤ x.toNat then none else some (if x = 1 then .rising else .falling) := by
  revert x
  decide

theorem clamp_zero (high x : Nat) : clamp 0 high x = min high x := Nat.zero_max _

/-- An operand without a lower end is left by its clamp when it is not above the upper one. -/
theorem clampMark_zero (n high x : Nat) : clampMark n x (clamp 0 high x) = if x ≤ high then 0 else 2 ^ n := by
  rw [clampMark, clamp_zero]
  split
  · rw [if_pos (by omega)]
  · rw [if_neg (by omega)]

theorem judgeTimebase_eq (o : TimebaseOperands) (s : State) : judgeTimebase o s =
    if s.sc.state ≠ .idle then refuse .busy
    else if 2 ≤ o.source.toNat then badValue 1
    else takenMask (clampMark 2 o.prescale.toNat (clamp 0 10 o.prescale.toNat)) := by
  simp only [judgeTimebase, sweepRunning_iff, timebaseSource_eq]
  split_ifs <;> rfl

/-- Settles O3: the verdict's conditions in their order, and the restart with its cleared reports. -/
theorem setTimebaseRestartsTheTimebase : Obligations.SetTimebaseRestartsTheTimebase := by
  intro b s o h
  have verdict : judgeDirective (.setTimebase o) s = _ := judgeTimebase_eq o s
  refine exec_refusedIf h rfl verdict ⟨rfl, rfl, rfl⟩ fun busy verdict => ?_
  refine exec_refusedIf h rfl verdict ⟨rfl, rfl, rfl⟩ fun source verdict => ?_
  rw [clampMark_zero] at verdict
  rw [exec_taken_beside h rfl verdict (takenMask_isTaken _) rfl rfl, answered_takenMask]
  simp only [applyDirective, applyTimebase, timebaseSource_eq, if_neg source, Option.getD_some, clamp_zero]
  by_cases small : o.prescale.toNat ≤ 10
  · simp only [if_pos small]
    rfl
  · simp only [if_neg small]
    rfl

theorem judgeIndex_eq (o : IndexOperands) (s : State) : judgeIndex o s =
    if s.sc.state ≠ .idle then refuse .busy
    else if 2 ≤ o.edge.toNat then badValue 1
    else takenMask (clampMark 2 o.nominal.toNat (clampNominal o.nominal.toNat)
      + clampMark 3 o.tolerance.toNat (clamp 1 255 o.tolerance.toNat)) := by
  simp only [judgeIndex, sweepRunning_iff, indexEdgeOperand_eq]
  split_ifs <;> rfl

/-- Settles O4: the verdict's conditions in their order, and the index record cleared with its reports. -/
theorem setIndexClearsTheIndexRecord : Obligations.SetIndexClearsTheIndexRecord := by
  intro b s o h
  have verdict : judgeDirective (.setIndex o) s = _ := judgeIndex_eq o s
  refine exec_refusedIf h rfl verdict ⟨rfl, rfl, rfl⟩ fun busy verdict => ?_
  refine exec_refusedIf h rfl verdict ⟨rfl, rfl, rfl⟩ fun edge verdict => ?_
  rw [exec_taken_beside h rfl verdict (takenMask_isTaken _) rfl rfl, answered_takenMask]
  simp only [applyDirective, applyIndex, indexEdgeOperand_eq, if_neg edge, Option.getD_some]
  rfl

/-! ## SET FOLLOW, SET HEAD, CLEAR HISTORY, CLEAR HEAD (R39 to R42, R72) -/

theorem judgeFollow_eq (o : FollowOperands) (s : State) : judgeFollow o s =
    if s.sc.state ≠ .idle then refuse .busy
    else takenMask (clampMark 1 o.settle.toNat (clamp 1 255 o.settle.toNat)
      + clampMark 2 o.inhibit.toNat (clamp 1 255 o.inhibit.toNat)
      + clampMark 3 o.limit.toNat (clamp 16 4095 o.limit.toNat)) := by
  simp only [judgeFollow, sweepRunning_iff]

/-- Settles O5: SET FOLLOW is refused while a sweep runs, and sets the three settings otherwise. -/
theorem setFollowSetsTheSharedSettings : Obligations.SetFollowSetsTheSharedSettings := by
  intro b s o h
  have verdict : judgeDirective (.setFollow o) s = _ := judgeFollow_eq o s
  refine exec_refusedIf h rfl verdict ⟨rfl, rfl, rfl⟩ fun busy verdict => ?_
  rw [exec_taken_beside h rfl verdict (takenMask_isTaken _) rfl rfl, answered_takenMask]
  rfl

theorem headChoice_eq_bad (heads : Nat) (x : BitVec 8) : headChoice heads x = .bad ↔ x ≠ 0xFF ∧ heads ≤ x.toNat := by
  unfold headChoice
  split
  · next hall => exact iff_of_false HeadChoice.noConfusion fun hc => hc.1 hall
  · next hall =>
    split
    · next hlt => exact iff_of_false HeadChoice.noConfusion fun hc => absurd hlt (not_lt.mpr hc.2)
    · next hge => exact iff_of_true rfl ⟨hall, not_lt.mp hge⟩

/-- An operand that is not refused names ALL heads, or the head of its number. -/
theorem choiceNames_of_good {heads : Nat} (hh : heads ≤ 16) {x : BitVec 8} (good : ¬ (x ≠ 0xFF ∧ heads ≤ x.toNat)) (h : Fin 16) :
    choiceNames (headChoice heads x) h = true ↔ x = 0xFF ∨ x.toNat = h.val := by
  rw [choiceNames_headChoice hh, decide_eq_true_eq]
  refine or_congr_right' fun hne => and_iff_right ?_
  exact not_le.mp fun hc => good ⟨hne, hc⟩

theorem judgeHead_eq (o : HeadOperands) (s : State) : judgeHead o s =
    if s.sc.state ≠ .idle then refuse .busy
    else if o.head ≠ 0xFF ∧ s.fr.heads ≤ o.head.toNat then badValue 1
    else takenMask (clampMark 2 o.floor.toNat (clamp 0 4095 o.floor.toNat)
      + clampMark 3 o.signal.toNat (clamp 0 65535 o.signal.toNat)
      + clampMark 4 o.window.toNat (clamp 1 511 o.window.toNat)) := by
  simp only [judgeHead, sweepRunning_iff, headChoice_eq_bad]

/-- Settles O6: the named records change in F, S and W alone. -/
theorem setHeadSetsFloorsAndWindow : Obligations.SetHeadSetsFloorsAndWindow := by
  intro b s o h heads
  have verdict : judgeDirective (.setHead o) s = _ := judgeHead_eq o s
  refine exec_answeredIf h rfl verdict ⟨rfl, rfl, rfl⟩ fun _ verdict => ?_
  refine exec_answeredIf h rfl verdict ⟨rfl, rfl, rfl⟩ fun head verdict => ?_
  refine ⟨_, exec_taken_beside h rfl verdict (takenMask_isTaken _) rfl rfl, ?_, changeRecords_frame _ _ _, fun x => ?_⟩
  · rw [answered_takenMask]
    simp only [clamp_zero]
    rfl
  · have named := choiceNames_of_good heads head x
    refine (changeRecords_record s.fm (headChoice s.fr.heads o.head) _ x).trans ?_
    simp only [named, clamp_zero]
    rfl

theorem judgeClearHistory_eq (x : BitVec 8) (s : State) : judgeClearHistory x s =
    if x ≠ 0xFF ∧ s.fr.heads ≤ x.toNat then badValue 1 else taken := by
  simp only [judgeClearHistory, headChoice_eq_bad]

/-- Settles O7: the history sets of the named heads are emptied. -/
theorem clearHistoryEmptiesHistorySets : Obligations.ClearHistoryEmptiesHistorySets := by
  intro b s x h heads
  have verdict : judgeDirective (.clearHistory x) s = _ := judgeClearHistory_eq x s
  refine exec_answeredIf h rfl verdict ⟨rfl, rfl, rfl⟩ fun bad verdict => ?_
  refine ⟨_, exec_taken_beside h rfl verdict rfl rfl rfl, rfl, changeRecords_frame _ _ _, fun y => ?_⟩
  have named := choiceNames_of_good heads bad y
  refine (changeRecords_record s.fm (headChoice s.fr.heads x) _ y).trans ?_
  simp only [named]
  rfl

theorem judgeClearHead_eq (x : BitVec 8) (s : State) : judgeClearHead x s =
    if s.sc.state ≠ .idle then refuse .busy
    else if x ≠ 0xFF ∧ s.fr.heads ≤ x.toNat then badValue 1
    else taken := by
  simp only [judgeClearHead, sweepRunning_iff, headChoice_eq_bad]

/-- The active head is named when it is one of the heads the operand names (R42). -/
theorem activeNamed_iff (fm : FollowMonitor) (c : HeadChoice) :
    activeNamed fm c = true ↔ ∃ a, fm.active = some a ∧ choiceNames c a = true := by
  unfold activeNamed
  cases fm.active <;> simp

/-- Settles O8: the named records return to UNSEEN, the named heads' cells are emptied, and a named active head is absent. -/
theorem clearHeadEmptiesRecordsAndCells : Obligations.ClearHeadEmptiesRecordsAndCells := by
  intro b s x h heads
  have verdict : judgeDirective (.clearHead x) s = _ := judgeClearHead_eq x s
  refine exec_answeredIf h rfl verdict ⟨rfl, rfl, rfl⟩ fun _ verdict => ?_
  refine exec_answeredIf h rfl verdict ⟨rfl, rfl, rfl⟩ fun bad verdict => ?_
  refine ⟨_, exec_taken_beside h rfl verdict rfl rfl rfl, rfl, ?_⟩
  have named := choiceNames_of_good heads bad
  have active : (∃ a, s.fm.active = some a ∧ (x = 0xFF ∨ x.toNat = a.val)) ↔ activeNamed s.fm (headChoice s.fr.heads x) = true := by
    simp only [activeNamed_iff, named]
  obtain ⟨settle, inhibit, limit, activeKept, lastKept⟩ :=
    monitor_fields (changeRecords_frame s.fm (headChoice s.fr.heads x) clearRecord)
  have records := changeRecords_record s.fm (headChoice s.fr.heads x) clearRecord
  have cells (c : Fin 512) := emptyHeads_cell s.table (headChoice s.fr.heads x) c
  simp only [named] at records cells
  simp only [active]
  -- the monitor as CLEAR HEAD leaves it, in the two cases of the active head
  have fm : (applyDirective (.clearHead x) (latched (.clearHead x) s)).fm =
      if activeNamed s.fm (headChoice s.fr.heads x) = true then
        { changeRecords s.fm (headChoice s.fr.heads x) clearRecord with active := none, last := LastFrame.absent }
      else changeRecords s.fm (headChoice s.fr.heads x) clearRecord := rfl
  simp only [fm]
  split
  · exact ⟨⟨settle, inhibit, limit⟩, records, ⟨rfl, rfl⟩, cells⟩
  · exact ⟨⟨settle, inhibit, limit⟩, records, ⟨activeKept, lastKept⟩, cells⟩

/-! ## SET REPORTS (R137) -/

theorem maskOutside_iff (m : Word) : maskOutside m = true ↔ m.toNat % 2 = 1 ∨ 4096 ≤ m.toNat := by
  simp only [maskOutside, Bool.or_eq_true, decide_eq_true_eq]
  omega

theorem judgeReports_eq (m : Word) (s : State) : judgeReports m s =
    if m.toNat % 2 = 1 ∨ 4096 ≤ m.toNat then badValue 1 else taken := by
  simp only [judgeReports, maskOutside_iff]

/-- Settles O9: the mask is read bit by bit, and the kinds it disables lose their entries. -/
theorem setReportsReplacesTheMask : Obligations.SetReportsReplacesTheMask := by
  intro b s m h
  have verdict : judgeDirective (.setReports m) s = _ := judgeReports_eq m s
  refine exec_answeredIf h rfl verdict ⟨rfl, rfl, rfl⟩ fun _ verdict => ?_
  have frame := ReportArbiter.clearEntries_frame { s.ra with mask := readMask m } (disabledKinds m)
  have entries := ReportArbiter.clearEntries_entry { s.ra with mask := readMask m } (disabledKinds m)
  refine ⟨_, exec_taken_beside h rfl verdict rfl rfl rfl, rfl, ?_, fun k => ⟨?_, ?_⟩⟩
  · exact (congrArg (fun r : ReportArbiter => { r with mask := s.ra.mask, pend := s.ra.pend }) frame).trans rfl
  · exact (congrArg (fun r : ReportArbiter => r.enabled k) frame).trans (readMask_get m k)
  · refine (entries k).trans ?_
    simp only [mem_disabledKinds]
    cases m.getLsbD k.code <;> rfl

/-! ## HALT (R92) -/

theorem haltSweep_idle {s : State} (idle : s.sc.state = .idle) : s.haltSweep = s := if_pos idle

theorem haltSweep_running {s : State} (running : s.sc.state ≠ .idle) : s.haltSweep =
    { s with sc := { s.sc with state := .idle }
             ra := s.ra.raise .sweepDone { place := none, a := 2, b := s.sc.passesCompleted } } :=
  if_neg running

/-- Settles O14: HALT is taken in every state, and outside IDLE ends the sweep. -/
theorem haltEndsTheSweep : Obligations.HaltEndsTheSweep := by
  intro b s h
  by_cases idle : s.sc.state = .idle
  · have effect : applyDirective .halt (latched .halt s) = latched .halt s := haltSweep_idle idle
    rw [exec_taken_beside h rfl (v := taken) rfl rfl effect rfl, if_pos idle]
    rfl
  · have effect : applyDirective .halt (latched .halt s) = { latched .halt s with
        sc := { s.sc with state := .idle }
        ra := s.ra.raise .sweepDone { place := none, a := 2, b := s.sc.passesCompleted } } := haltSweep_running idle
    rw [exec_taken_beside h rfl (v := taken) rfl rfl effect rfl, if_neg idle]
    rfl

/-! ## SWEEP (R77 to R82) -/

theorem quantityOperand_eq (x : BitVec 2) : quantityOperand x.toNat =
    if 2 ≤ x.toNat then none else some (if x = 1 then .jog else .centre) := by
  revert x
  decide

theorem passesOperand_eq (x : BitVec 2) : passesOperand x =
    if 2 ≤ x.toNat then none else some (if x = 1 then .continuous else .onePass) := by
  revert x
  decide

theorem triggerOperand_eq (x : BitVec 2) : triggerOperand x =
    if x = 3 then none else some (if x = 0 then .now else if x = 1 then .index else .timer) := by
  revert x
  decide

theorem startPass_eq (s : State) : s.startPass =
    { s with
      sc := { s.sc with
        state := .awaitHead
        passNumber := saturate Config.countLimit s.sc.passNumber 1
        currentHead := s.sc.firstHead
        revolutions := 0 }
      ra := s.ra.raise .headRequest { place := some (s.sc.firstHead, s.sc.zone), a := 0, b := 0 } } := rfl

/-- With trigger NOW the first pass starts at once (R80). -/
theorem arm_now {s : State} (h : s.sc.trigger = .now) : s.arm = s.startPass := by
  rw [State.arm, h]
  rfl

theorem arm_waiting {s : State} (h : s.sc.trigger ≠ .now) : s.arm = s.withSc { s.sc with state := .armed } := by
  rw [State.arm]
  cases ht : s.sc.trigger with
  | now => exact absurd ht h
  | index | timer => rfl

/-- The sweep record SWEEP loads, its operands in their ranges (R78). -/
theorem loadSweep_eq {o : SweepOperands} (sc : SweepController) (kind : ¬ 2 ≤ o.kind.toNat) (passes : ¬ 2 ≤ o.passes.toNat)
    (trigger : ¬ o.trigger = 3) : loadSweep o sc =
    { sc with
      kind := if o.kind = 1 then .jog else .centre
      firstHead := Fin.ofNat 16 o.firstHead.toNat
      lastHead := Fin.ofNat 16 o.lastHead.toNat
      zone := Fin.ofNat 32 o.zone.toNat
      quota := max 1 (min 4096 o.quota.toNat)
      deadline := max 1 (min 255 o.deadline.toNat)
      passes := if o.passes = 1 then .continuous else .onePass
      trigger := if o.trigger = 0 then .now else if o.trigger = 1 then .index else .timer
      atSpeed := o.atSpeed
      limit := min 511 o.limit.toNat
      spreadLimit := min 511 o.spreadLimit.toNat
      jogThreshold := o.jogThreshold.toNat
      currentHead := Fin.ofNat 16 o.firstHead.toNat
      passNumber := 0
      passesCompleted := 0
      revolutions := 0 } := by
  simp only [loadSweep, quantityOperand_eq, passesOperand_eq, triggerOperand_eq, if_neg kind, if_neg passes, if_neg trigger,
    Option.getD_some, clamp_zero]
  rfl

theorem clearSweepReports_eq (s : State) : s.clearReports [.headRequest, .cellClosed, .sweepDone] =
    { s with ra := { s.ra with
        pend := ((s.ra.pend.set ReportKind.headRequest.index none).set ReportKind.cellClosed.index none).set
          ReportKind.sweepDone.index none } } := rfl

/-- SWEEP loads the record and clears the reports of an earlier sweep; with trigger NOW the first pass starts at once (R78, R80). -/
theorem applySweep_now {o : SweepOperands} {s : State} (now : (loadSweep o s.sc).trigger = .now) : applySweep o s =
    { s with
      sc := { loadSweep o s.sc with state := .awaitHead, passNumber := 1 }
      ra := ReportArbiter.raise { s.ra with
          pend := ((s.ra.pend.set ReportKind.headRequest.index none).set ReportKind.cellClosed.index none).set
            ReportKind.sweepDone.index none } .headRequest
        { place := some (Fin.ofNat 16 o.firstHead.toNat, Fin.ofNat 32 o.zone.toNat), a := 0, b := 0 } } := by
  rw [applySweep, clearSweepReports_eq, arm_now now, startPass_eq]
  rfl

theorem applySweep_waiting {o : SweepOperands} {s : State} (waits : (loadSweep o s.sc).trigger ≠ .now) : applySweep o s =
    { s with
      sc := { loadSweep o s.sc with state := .armed }
      ra := { s.ra with
        pend := ((s.ra.pend.set ReportKind.headRequest.index none).set ReportKind.cellClosed.index none).set
          ReportKind.sweepDone.index none } } := by
  rw [applySweep, clearSweepReports_eq, arm_waiting waits]
  rfl

/-- Settles O13: the verdict's conditions in their order, then the operands loaded and the trigger looked at. -/
theorem sweepStartsASweep : Obligations.SweepStartsASweep := by
  intro b s o h heads zones
  have verdict : judgeDirective (.sweep o) s = _ := judgeSweep_eq o s
  rw [quantityOperand_eq, passesOperand_eq, triggerOperand_eq] at verdict
  simp only [ite_eq_left_iff, reduceCtorEq, imp_false, not_not, clampMark_zero] at verdict
  refine exec_refusedIf h rfl verdict ⟨rfl, rfl, rfl⟩ fun _ verdict => ?_
  refine exec_refusedIf h rfl verdict ⟨rfl, rfl, rfl⟩ fun _ verdict => ?_
  refine exec_refusedIf h rfl verdict ⟨rfl, rfl, rfl⟩ fun kind verdict => ?_
  refine exec_refusedIf h rfl verdict ⟨rfl, rfl, rfl⟩ fun _ verdict => ?_
  refine exec_refusedIf h rfl verdict ⟨rfl, rfl, rfl⟩ fun _ verdict => ?_
  refine exec_refusedIf h rfl verdict ⟨rfl, rfl, rfl⟩ fun _ verdict => ?_
  refine exec_refusedIf h rfl verdict ⟨rfl, rfl, rfl⟩ fun passes verdict => ?_
  refine exec_refusedIf h rfl verdict ⟨rfl, rfl, rfl⟩ fun trigger verdict => ?_
  by_cases now : o.trigger = 0
  · have effect : applyDirective (.sweep o) (latched (.sweep o) s) = _ :=
      applySweep_now (s := latched (.sweep o) s) (by rw [loadSweep_eq _ kind passes trigger]; exact if_pos now)
    rw [exec_taken_beside h rfl verdict (takenMask_isTaken _) effect rfl, answered_takenMask, loadSweep_eq _ kind passes trigger]
    simp only [if_pos now]
    rfl
  · have effect : applyDirective (.sweep o) (latched (.sweep o) s) = _ :=
      applySweep_waiting (s := latched (.sweep o) s)
        (by rw [loadSweep_eq _ kind passes trigger]; simp only [if_neg now]; split <;> exact Trigger.noConfusion)
    rw [exec_taken_beside h rfl verdict (takenMask_isTaken _) effect rfl, answered_takenMask, loadSweep_eq _ kind passes trigger]
    simp only [if_neg now]
    rfl

end Sys2Proof.Proofs
end

section
/-! The directives of the Frame Reducer, of the window map and of the Image Patcher: what each does when it is taken, and the
verdict it is refused with (chapters 1, 7 and 10). -/

namespace Sys2Proof.Proofs

open Sys2Proof.Machine

/-! ## SET GEOMETRY and SET ZONES (R7, R22, R23, R43) -/

theorem abandonFrame_eq (s : State) : s.abandonFrame = { s with fr := abandonInto s.fr, ra := abandonRaise s } := by
  unfold State.abandonFrame abandonInto abandonRaise
  cases s.fr.frame <;> rfl

theorem abandonInto_zones (fr : FrameReducer) : (abandonInto fr).zones = fr.zones := by
  unfold abandonInto
  split <;> rfl

/-- Abandoning a frame looks at nothing but the frame. -/
theorem abandonInto_withZones (fr : FrameReducer) (l : List Nat) :
    { abandonInto fr with zones := l } = abandonInto { fr with zones := l } := by
  unfold abandonInto
  dsimp only
  split <;> rfl

theorem applyGeometry_eq (o : GeometryOperands) (s : State) : applyGeometry o s =
    { s with
      fr := abandonInto { s.fr with
        heads := o.heads.toNat
        zoneCount := o.zones.toNat
        wpr := clamp 64 1023 o.wpr.toNat
        gapLimit := clamp 1 63 o.gapLimit.toNat
        zones := resizeZones s.fr.zones o.zones.toNat }
      ra := abandonRaise s
      fm := { s.fm with records := mapBank unseeRecord s.fm.records, active := none, last := LastFrame.absent } } := by
  rw [applyGeometry, abandonFrame_eq]
  rfl

/-- Settles O10: the verdict's conditions in their order, then the zone list entry by entry. -/
theorem setGeometryResizesZonesAndUnseesHeads : Obligations.SetGeometryResizesZonesAndUnseesHeads := by
  intro b s o h zones
  have verdict : judgeDirective (.setGeometry o) s = _ := judgeGeometry_eq o s
  rw [← ite_or (o.zones.toNat < 1 ∨ 32 < o.zones.toNat)] at verdict
  simp only [or_assoc] at verdict
  refine exec_answeredIf h rfl verdict ⟨rfl, rfl, rfl⟩ fun _ verdict => ?_
  refine exec_answeredIf h rfl verdict ⟨rfl, rfl, rfl⟩ fun _ verdict => ?_
  refine exec_answeredIf h rfl verdict ⟨rfl, rfl, rfl⟩ fun _ verdict => ?_
  have effect : applyDirective (.setGeometry o) (latched (.setGeometry o) s) = _ := applyGeometry_eq o (latched (.setGeometry o) s)
  refine ⟨_, exec_taken_beside h rfl verdict (takenMask_isTaken _) effect rfl, ?_, rfl, abandonInto_withZones _ _, ?_, rfl, fun x => ?_⟩
  · rw [answered_takenMask]
    rfl
  · simp only [abandonInto_zones]
    refine ⟨resizeZones_length _ _, fun z hz => ?_⟩
    rw [← zones]
    exact resizeZones_getD s.fr.zones hz
  · exact mapBank_get unseeRecord s.fm.records x.val x.isLt

theorem applyZones_eq (o : ZoneOperands) (s : State) : applyZones o s =
    { s with
      fr := abandonInto { s.fr with zones := replaceZones s.fr.zones o.first.toNat (givenTracks o) }
      ra := abandonRaise s } := by
  rw [applyZones, abandonFrame_eq]
  rfl

/-- The zone list as SET ZONES would leave it, entry by entry (R23; log 19). -/
def zoneAfter (o : ZoneOperands) (zones : List Nat) (z : Nat) : Nat :=
  if h : o.first.toNat ≤ z ∧ z < o.first.toNat + o.count.toNat ∧ z - o.first.toNat < 6 then
    o.tracks[z - o.first.toNat].toNat
  else zones.getD z 0

section

variable {o : ZoneOperands} {zones : List Nat}

theorem replaceZones_zoneAfter (room : o.first.toNat + o.count.toNat ≤ zones.length) {z : Nat} (hz : z < zones.length) :
    (replaceZones zones o.first.toNat (givenTracks o)).getD z 0 = zoneAfter o zones z := by
  have given := givenTracks_length o
  rw [replaceZones_getD (by omega) hz, given, zoneAfter]
  by_cases hin : o.first.toNat ≤ z ∧ z < o.first.toNat + o.count.toNat ∧ z - o.first.toNat < 6
  · rw [dif_pos hin, if_pos (by omega)]
    exact givenTracks_getD o hin.2.2 (by omega)
  · rw [dif_neg hin, if_neg (by omega)]

/-- The list SET ZONES would leave strictly ascends when each first track is below the next. -/
theorem ascending_replaceZones (room : o.first.toNat + o.count.toNat ≤ zones.length) :
    ascending (replaceZones zones o.first.toNat (givenTracks o)) = true ↔
      ∀ z : Nat, z + 1 < zones.length → zoneAfter o zones z < zoneAfter o zones (z + 1) := by
  have given := givenTracks_length o
  rw [ascending_iff_getD, replaceZones_length (by omega)]
  refine forall_congr' fun z => forall_congr' fun hz => ?_
  rw [replaceZones_zoneAfter room hz, replaceZones_zoneAfter room (by omega)]

/-- The first of the given first tracks, if one is given. -/
theorem givenTracks_headD (o : ZoneOperands) : (givenTracks o).headD 0 ≠ 0 ↔ 1 ≤ o.count.toNat ∧ o.tracks[0].toNat ≠ 0 := by
  have given := givenTracks_length o
  by_cases hc : 1 ≤ o.count.toNat
  · rw [headD_eq_getD (by omega), givenTracks_getD o (by omega) hc]
    exact (and_iff_right hc).symm
  · rw [List.length_eq_zero_iff.mp (show (givenTracks o).length = 0 by omega)]
    exact iff_of_false (fun h => h rfl) fun h => hc h.1

/-- The conditions that name operand 1, over the list as it would be left. -/
theorem misplaced_iff {fr : FrameReducer} (hz : fr.zones.length = fr.zoneCount) : Misplaced o fr ↔
    fr.zoneCount < o.first.toNat + o.count.toNat ∨ (o.first.toNat = 0 ∧ 1 ≤ o.count.toNat ∧ o.tracks[0].toNat ≠ 0) ∨
      ¬ ∀ z : Nat, z + 1 < fr.zoneCount → zoneAfter o fr.zones z < zoneAfter o fr.zones (z + 1) := by
  rw [Misplaced, givenTracks_headD]
  refine or_congr_right' fun room => or_congr_right ?_
  rw [ascending_replaceZones (by omega), hz]

end

/-- A first track that is too great, among those the count names (R23). -/
theorem tooGreat_iff (o : ZoneOperands) {i : Nat} : (i < (givenTracks o).length ∧ 16777215 < (givenTracks o).getD i 0) ↔
    ∃ h : i < 6, i < o.count.toNat ∧ 16777215 < o.tracks[i].toNat := by
  rw [givenTracks_length, lt_min_iff]
  constructor
  · rintro ⟨⟨hc, h6⟩, great⟩
    exact ⟨h6, hc, givenTracks_getD o h6 hc ▸ great⟩
  · rintro ⟨h6, hc, great⟩
    exact ⟨⟨hc, h6⟩, (givenTracks_getD o h6 hc).symm ▸ great⟩

/-- Settles O11: the lowest operand of a condition that fails is named, and with none the list is replaced. -/
theorem setZonesReplacesFirstTracks : Obligations.SetZonesReplacesFirstTracks := by
  intro b s o h zones
  dsimp only
  have running : judgeDirective (.setZones o) s = _ := judgeZones_eq o s
  have named := @mem_zoneConditions o s.fr
  simp only [misplaced_iff zones, ← and_assoc (b := 16777215 < _), tooGreat_iff] at named
  -- the verdict that names operand `n`, when no lower one fails
  have refusal {n : Nat} (idle : s.sc.state = .idle) (hn : (true, n) ∈ zoneConditions o s.fr)
      (low : ∀ m, (true, m) ∈ zoneConditions o s.fr → n ≤ m) : exec (.setZones o) s = .next (answered b (.setZones o) 5 n s) :=
    exec_refused (d := .setZones o) h rfl (judgeZones_bad idle hn low) ⟨rfl, rfl, rfl⟩
  refine ⟨fun busy => ?_, fun idle bad => ?_, fun idle good count => ?_, fun idle good one six => ⟨fun i great least => ?_, fun fits => ?_⟩⟩
  · rw [if_pos busy] at running
    exact exec_refused h rfl running ⟨rfl, rfl, rfl⟩
  · refine refusal idle (named.mpr (.inl ⟨rfl, bad⟩)) fun m hm => ?_
    obtain ⟨rfl, -⟩ | ⟨rfl, -⟩ | ⟨i, -, rfl⟩ := named.mp hm <;> omega
  · refine refusal idle (named.mpr (.inr (.inl ⟨rfl, count⟩))) fun m hm => ?_
    obtain ⟨rfl, bad⟩ | ⟨rfl, -⟩ | ⟨i, -, rfl⟩ := named.mp hm
    · exact absurd bad good
    · exact le_rfl
    · omega
  · refine refusal idle (named.mpr (.inr (.inr ⟨i.val, ⟨i.isLt, great⟩, rfl⟩))) fun m hm => ?_
    obtain ⟨rfl, bad⟩ | ⟨rfl, count⟩ | ⟨j, ⟨hj, greater⟩, rfl⟩ := named.mp hm
    · exact absurd bad good
    · omega
    · exact Nat.add_le_add_left (not_lt.mp fun hlt => least ⟨j, hj⟩ hlt greater) 3
  · have verdict : judgeDirective (.setZones o) s = taken := judgeZones_good idle fun m hm => by
      obtain ⟨rfl, bad⟩ | ⟨rfl, count⟩ | ⟨j, ⟨hj, greater⟩, rfl⟩ := named.mp hm
      · exact good bad
      · omega
      · exact fits ⟨j, hj⟩ greater
    have room : o.first.toNat + o.count.toNat ≤ s.fr.zones.length := zones ▸ not_lt.mp fun hc => good (.inl hc)
    have given := givenTracks_length o
    have length : (replaceZones s.fr.zones o.first.toNat (givenTracks o)).length = _ := replaceZones_length (by omega)
    have effect : applyDirective (.setZones o) (latched (.setZones o) s) = _ := applyZones_eq o (latched (.setZones o) s)
    refine ⟨_, exec_taken_beside h rfl verdict rfl effect rfl, rfl, rfl, abandonInto_withZones _ _, ?_, fun z hz => ?_⟩
    · exact (congrArg List.length (abandonInto_zones _)).trans (length.trans zones)
    · exact (congrArg (List.getD · z 0) (abandonInto_zones _)).trans (replaceZones_zoneAfter room (zones ▸ hz))

/-! ## SET WINDOWS (R71, R159, R160) -/

theorem applyWindows_eq (o : WindowOperands) (s : State) : applyWindows o s =
    { s with
      tp := { s.tp with
        captureRing := some { base := o.captureBase.toNat, slots := clamp 16 65536 o.slotCount.toNat }
        resultArea := some o.resultBase.toNat }
      fr := abandonInto s.fr
      ra := abandonRaise s
      table := if s.tp.resultArea = some o.resultBase.toNat then s.table else clearUnread s.table } := by
  simp only [applyWindows, abandonFrame_eq, decide_eq_true_eq, ite_not, ne_eq]
  split <;> rfl

/-- Settles O12: the verdict's conditions in their order, then the windows placed and the unread flags as the area moves. -/
theorem setWindowsPlacesTheWindows : Obligations.SetWindowsPlacesTheWindows := by
  intro b s o h unset
  obtain ⟨⟨-, base, -⟩, -⟩ := h.1
  have verdict : judgeDirective (.setWindows o) s = _ := judgeWindows_eq o s
  have image (a n : Nat) : overlapsImage s a n = true ↔ ∃ w, s.ip.window = some w ∧ a < w.base + w.length ∧ w.base < a + n := by
    simp only [overlapsImage_iff, rangesOverlap_iff]
    exact and_iff_right_of_imp fun ⟨w, hw, _⟩ hu => by
      rw [unset hu] at hw
      cases hw
  simp only [rangesOverlap_iff, overlapsControl_iff, base, image, Option.some.injEq, exists_eq_left'] at verdict
  dsimp only
  refine exec_answeredIf h rfl verdict ⟨rfl, rfl, rfl⟩ fun _ verdict => ?_
  refine exec_answeredIf h rfl verdict ⟨rfl, rfl, rfl⟩ fun _ verdict => ?_
  refine exec_answeredIf h rfl verdict ⟨rfl, rfl, rfl⟩ fun _ verdict => ?_
  refine exec_answeredIf h rfl verdict ⟨rfl, rfl, rfl⟩ fun _ verdict => ?_
  refine exec_answeredIf h rfl verdict ⟨rfl, rfl, rfl⟩ fun _ verdict => ?_
  have effect : applyDirective (.setWindows o) (latched (.setWindows o) s) = _ := applyWindows_eq o (latched (.setWindows o) s)
  refine ⟨_, exec_taken h rfl verdict (takenMask_isTaken _) effect, ?_, fun c => ?_⟩
  · rw [answered_takenMask]
    by_cases kept : o.slotCount.toNat = clamp 16 65536 o.slotCount.toNat
    · rw [(clampMark_eq_zero _ _ _).mpr kept]
      simp only [clamp] at kept
      simp only [ne_eq, if_neg (not_not.mpr kept)]
      rfl
    · rw [clampMark, if_neg kept]
      simp only [clamp] at kept
      simp only [ne_eq, if_pos kept]
      rfl
  · change (if s.tp.resultArea = some o.resultBase.toNat then s.table else clearUnread s.table).cell c = _
    split
    · rfl
    · exact clearUnread_cell s.table c

/-! ## SET IMAGE, MAP FIELD, CLEAR MAP and RELEASE (R115, R117 to R119, R129) -/


theorem rangesOverlap_eq (a la b lb : Nat) : rangesOverlap a la b lb = decide (a < b + lb ∧ b < a + la) := by
  rw [Bool.eq_iff_iff, rangesOverlap_iff, decide_eq_true_eq]

theorem overlapsCapture_eq (s : State) (a n : Nat) : overlapsCapture s a n =
    s.tp.captureRing.any fun r => decide (a < r.base + 32 * r.slots ∧ r.base < a + n) := by
  unfold overlapsCapture
  cases s.tp.captureRing with
  | none => rfl
  | some r => exact rangesOverlap_eq _ _ _ _

theorem overlapsResult_eq (s : State) (a n : Nat) : overlapsResult s a n =
    s.tp.resultArea.any fun r => decide (a < r + 16384 ∧ r < a + n) := by
  unfold overlapsResult
  cases s.tp.resultArea with
  | none => rfl
  | some r => exact rangesOverlap_eq _ _ _ _

/-- Settles O15: the verdict's conditions in their order, then the window in LOADING. -/
theorem setImageOpensTheWindow : Obligations.SetImageOpensTheWindow := by
  intro b s o h
  obtain ⟨⟨-, base, -⟩, -⟩ := h.1
  have verdict : judgeDirective (.setImage o) s = _ := judgeImage_eq o s
  have control (a n : Nat) : overlapsControl s a n = decide (a < b + 4096 ∧ b < a + n) := by
    rw [overlapsControl, base]
    exact rangesOverlap_eq _ _ _ _
  simp only [control, overlapsCapture_eq, overlapsResult_eq] at verdict
  dsimp only
  refine exec_refusedIf h rfl verdict ⟨rfl, rfl, rfl⟩ fun _ verdict => ?_
  refine exec_refusedIf h rfl verdict ⟨rfl, rfl, rfl⟩ fun _ verdict => ?_
  refine exec_refusedIf h rfl verdict ⟨rfl, rfl, rfl⟩ fun _ verdict => ?_
  refine exec_refusedIf h rfl verdict ⟨rfl, rfl, rfl⟩ fun _ verdict => ?_
  refine exec_refusedIf h rfl verdict ⟨rfl, rfl, rfl⟩ fun _ verdict => ?_
  exact exec_taken_beside h rfl verdict rfl rfl rfl

theorem encodingOperand_eq (x : BitVec 8) : encodingOperand x =
    if 3 ≤ x.toNat then none else some (if x = 0 then .twos else if x = 1 then .offset else .signMag) := by
  revert x
  decide

theorem fieldQuantity_eq (x : BitVec 8) : quantityOperand x.toNat =
    if 2 ≤ x.toNat then none else some (if x = 0 then .centre else .jog) := by
  revert x
  decide

/-- A field is taken when it meets the checksum word or an entry of the map (R117). -/
theorem fieldTaken_iff {ip : ImagePatcher} {w : ImageWindow} (hw : ip.window = some w) (off width : Nat) :
    fieldTaken ip off width = true ↔ (off < w.checksum + 16 / 8 ∧ w.checksum < off + width / 8) ∨
      ∃ e ∈ ip.map, off < e.offset + e.width / 8 ∧ e.offset < off + width / 8 := by
  simp only [fieldTaken, fieldsOverlap, windowChecksum, hw, Option.map_some, Option.getD_some, Bool.or_eq_true, List.any_eq_true,
    rangesOverlap_iff]

/-- Settles O16: the verdict's conditions in their order, then the entry put at its place in the map. -/
theorem mapFieldPlacesAnEntry : Obligations.MapFieldPlacesAnEntry := by
  intro b s o h heads zones
  have verdict : judgeDirective (.mapField o) s = _ := judgeField_eq o s
  refine ⟨fun notLoading => ?_, fun w loading window => ?_⟩
  · rw [if_pos notLoading] at verdict
    exact exec_refused h rfl verdict ⟨rfl, rfl, rfl⟩
  rw [if_neg (not_not.mpr loading)] at verdict
  have length : windowLength s.ip = w.length := by rw [windowLength, window]; rfl
  simp only [length, fieldTaken_iff window, encodingOperand_eq, fieldQuantity_eq, ite_eq_left_iff, reduceCtorEq, imp_false,
    not_not] at verdict
  dsimp only
  refine exec_answeredIf h rfl verdict ⟨rfl, rfl, rfl⟩ fun offset verdict => ?_
  refine exec_answeredIf h rfl verdict ⟨rfl, rfl, rfl⟩ fun width verdict => ?_
  refine exec_answeredIf h rfl verdict ⟨rfl, rfl, rfl⟩ fun encoding verdict => ?_
  refine exec_answeredIf h rfl verdict ⟨rfl, rfl, rfl⟩ fun _ verdict => ?_
  refine exec_answeredIf h rfl verdict ⟨rfl, rfl, rfl⟩ fun _ verdict => ?_
  refine exec_answeredIf h rfl verdict ⟨rfl, rfl, rfl⟩ fun _ verdict => ?_
  refine exec_answeredIf h rfl verdict ⟨rfl, rfl, rfl⟩ fun quantity verdict => ?_
  refine exec_answeredIf h rfl verdict ⟨rfl, rfl, rfl⟩ fun free verdict => ?_
  refine exec_answeredIf h rfl verdict ⟨rfl, rfl, rfl⟩ fun _ verdict => ?_
  refine ⟨_, exec_taken_beside h rfl verdict rfl rfl rfl, rfl, rfl, ?_, fun ascends widths => ?_⟩
  · refine (insertEntry_perm (newEntry o) s.ip.map).trans (.of_eq (congrArg (· :: s.ip.map) ?_))
    simp only [newEntry, encodingOperand_eq, fieldQuantity_eq, if_neg encoding, if_neg quantity, Option.getD_some]
  · refine insertEntry_pairwise (R := fun x y => x.offset < y.offset) (fun _ _ => le_of_lt) (newEntry o) s.ip.map (fun _ _ hx => hx) (fun x hx below => ?_) ascends
    -- an entry at the same offset would share a byte with the field
    refine lt_of_le_of_ne below fun same => free (.inr ⟨x, hx, ?_⟩)
    have := widths x hx
    have : x.offset = o.offset.toNat := same
    omega

/-- Settles O17: the map is emptied unless the image is PUBLISHED. -/
theorem clearMapEmptiesTheMap : Obligations.ClearMapEmptiesTheMap := by
  intro b s h
  have verdict : judgeDirective .clearMap s = if s.ip.state = .published then refuse .state else taken := rfl
  refine ⟨exec_refusedIf h rfl verdict ⟨rfl, rfl, rfl⟩ fun _ verdict => exec_taken_beside h rfl verdict rfl rfl rfl, fun unpublished empty => ?_⟩
  rw [if_neg unpublished] at verdict
  rw [exec_taken_beside h rfl verdict rfl rfl rfl]
  have kept : applyClearMap (latched .clearMap s) = latched .clearMap s := by
    rw [applyClearMap, show (latched .clearMap s).ip = s.ip from rfl, ← empty]
    rfl
  rw [show applyDirective .clearMap (latched .clearMap s) = latched .clearMap s from kept]
  rfl

/-- Settles O19: RELEASE returns a PUBLISHED image to LOADING. -/
theorem releaseReturnsToLoading : Obligations.ReleaseReturnsToLoading := by
  intro b s h
  have verdict : judgeDirective .release s = if s.ip.state ≠ .published then refuse .state else taken := rfl
  refine exec_refusedIf h rfl verdict ⟨rfl, rfl, rfl⟩ fun _ verdict => ?_
  exact exec_taken_beside h rfl verdict rfl rfl rfl

/-! ## PUBLISH (R74, R114, R123, R124) -/

theorem publishEntry_fst (t : AlignmentTable) (e : PatchEntry) : (publishEntry t e).1 =
    { e with state := match e.baseline, sourceValue t e with
        | some _, some v => .live (encodeFigure e v).1
        | _, _ => .dormant } := by
  unfold publishEntry
  cases e.baseline <;> cases sourceValue t e <;> rfl

theorem publishEntry_snd (t : AlignmentTable) (e : PatchEntry) : (publishEntry t e).2 =
    match e.baseline, sourceValue t e with
    | some _, some v => (encodeFigure e v).2
    | _, _ => false := by
  unfold publishEntry
  cases e.baseline <;> cases sourceValue t e <;> rfl

/-- Counting the places of a list counts its entries. -/
theorem countP_range_eq {α : Type} {g : Nat → Bool} {p : α → Bool} (l : List α) (h : ∀ i (hi : i < l.length), g i = p l[i]) :
    (List.range l.length).countP g = l.countP p := by
  induction l generalizing g with
  | nil => rfl
  | cons x rest ih =>
    have first := h 0 (Nat.zero_lt_succ _)
    have others := ih (g := fun i => g (i + 1)) fun i hi => h (i + 1) (Nat.succ_lt_succ hi)
    rw [List.length_cons, List.range_succ_eq_map, List.countP_cons, List.countP_cons, List.countP_map, first, ← others]
    rfl

theorem sourceValue_eq (t : AlignmentTable) (e : PatchEntry) (c : Fin 512) (hc : c.val = 32 * e.head.val + e.zone.val) :
    sourceValue t e = match e.quantity with
      | .centre => (t.cell c).centre
      | .jog => (t.cell c).jog := by
  rw [show c = cellIndex e.head e.zone from Fin.ext (by rw [hc, cellIndex])]
  rfl

/-- The term of a LIVE entry is its baseline less its frozen value, in the byte of the sum it lies in (R114, R124). -/
theorem entryTerm_eq (e : PatchEntry) : entryTerm e = match e.state with
    | .live frozen => (if e.width = 8 ∧ e.offset % 2 = 1 then 256 else 1) * (((e.baseline.getD 0 : Nat) : Int) - frozen)
    | .dormant => 0 := by
  unfold entryTerm contribution
  cases e.state with
  | dormant => rfl
  | live frozen =>
    dsimp only
    split <;> push_cast <;> ring

theorem termSum_eq (m : List PatchEntry) : termSum m = (m.map entryTerm).sum := by
  induction m with
  | nil => rfl
  | cons e rest ih => rw [termSum, List.map_cons, List.sum_cons, ih]

/-- Settles O18: each entry of the map is published for itself, and the counts and the adjustment are those of the map left. -/
theorem publishFreezesTheMap : Obligations.PublishFreezesTheMap := by
  refine ⟨fun b s h => ?_, fun t e c hc => sourceValue_eq t e c hc, fun m => ?_⟩
  · have verdict : judgeDirective .publish s = if s.ip.state ≠ .loading then refuse .state
        else { code := .taken, detail := liveCount s.table s.ip.map + 65536 * saturatedCount s.table s.ip.map } := rfl
    refine ⟨fun notLoading => ?_, fun loading => ?_⟩
    · rw [if_pos notLoading] at verdict
      exact exec_refused h rfl verdict ⟨rfl, rfl, rfl⟩
    rw [if_neg (not_not.mpr loading)] at verdict
    refine ⟨_, liveCount s.table s.ip.map, saturatedCount s.table s.ip.map, exec_taken_beside h rfl verdict rfl rfl rfl, rfl, rfl, rfl,
      List.length_map _, mapAdjustment_cast _, ?_, ?_, fun i => ?_⟩
    · have live : (s.ip.map.map fun e => (publishEntry s.table e).1).countP PatchEntry.isLive = liveCount s.table s.ip.map := List.countP_map
      exact live.symm
    · refine (countP_range_eq s.ip.map fun i hi => ?_).symm
      simp only [List.getElem?_eq_getElem hi, publishEntry_snd] <;> rfl
    · refine (List.getElem?_map ..).trans (congrArg (Option.map · _) (funext fun e => ?_))
      exact publishEntry_fst s.table e
  · rw [termSum_eq]
    exact congrArg List.sum (List.map_congr_left fun e _ => entryTerm_eq e)

end Sys2Proof.Proofs
end

section
/-! The mailbox and the Directive Decoder (chapter 9): the latch read back, a go word and a whole directive with room in the
insertion queue and without. -/

namespace Sys2Proof.Proofs

open Sys2Proof.Machine

/-! ## The latch read back (R148, R155, section 11.2) -/

/-- A directive read from the latch is of the kind in bits 7:0 of word 0. -/
theorem readDirective_kind {w : Vector Word 7} {d : Directive} (h : readDirective w = some d) : bits w[0] 0 8 = kindCode d := by
  unfold readDirective at h
  split at h <;> cases h <;> exact BitVec.eq_of_toNat_eq ‹_›

/-- The kind codes of the catalogue (section 9.6). -/
def catalogue : List (BitVec 8) :=
  [0x01#8, 0x02#8, 0x03#8, 0x04#8, 0x05#8, 0x06#8, 0x07#8, 0x08#8, 0x09#8, 0x10#8, 0x11#8, 0x12#8, 0x13#8, 0x20#8, 0x21#8,
    0x22#8, 0x23#8, 0x24#8]

theorem kindCode_mem_catalogue (d : Directive) : kindCode d ∈ catalogue := by
  cases d <;> simp [kindCode, catalogue]

theorem readDirective_none {w : Vector Word 7} (h : w[0].extractLsb' 0 8 ∉ catalogue) : readDirective w = none := by
  cases hr : readDirective w with
  | none => rfl
  | some d =>
    have kind : w[0].extractLsb' 0 8 = kindCode d := readDirective_kind hr
    exact absurd (kind ▸ kindCode_mem_catalogue d) h

/-- A flag read as a field of one bit. -/
theorem bits_flag (w : Word) (n : Nat) : (bits w n 1 == 1#1) = w.getLsbD n := by
  have bit : (bits w n 1).getLsbD 0 = w.getLsbD n := by simp [bits]
  rw [← bit]
  generalize bits w n 1 = x
  revert x
  decide

theorem directiveWords_toList (w : Vector Word 7) : w.toList = [w[0], w[1], w[2], w[3], w[4], w[5], w[6]] := by
  refine List.ext_getElem (by simp) fun i h _ => ?_
  rw [Vector.length_toList] at h
  interval_cases i <;> simp

/-- Settles O22: the words of the burst, and the operands by the kind code in word 0. -/
theorem directiveBurstReadsBackItsOperands : Obligations.DirectiveBurstReadsBackItsOperands := by
  refine ⟨fun b s c d running _ => ⟨directiveWords d, ?_, ?_, ?_, readDirective_directiveWords d⟩, fun w => ?_⟩
  · rw [directiveBurst_words running, directiveWords_toList]
    rfl
  · rw [directiveBurst_words running]
    rfl
  · rw [directiveBurst_words running]
    simp
  · intro code
    -- the operands are read by the number of the kind code
    have read {n : BitVec 8} (hc : code = n) : (bits w[0] 0 8).toNat = n.toNat := congrArg BitVec.toNat hc
    refine ⟨?_, ?_, ?_, ?_, ?_, ?_, ?_, ?_, ?_, fun hc => ?_, ?_, ?_, ?_, ?_, ?_, ?_, ?_, ?_, readDirective_none⟩
    case refine_10 =>
      rw [readDirective, read hc, bits_flag]
      rfl
    all_goals
      intro hc
      rw [readDirective, read hc]
      rfl

/-! ## A go word takes the latch (R148, R149, R151) -/

/-- The outcome record of the directive in the latch (R149). -/
def goRecord (s : State) : OutcomeRecord :=
  { kind := outcomeKind s.dd, code := (judgeLatch s).1.code, count := (s.dd.count + 1) % 65536
    detail := BitVec.ofNat 32 (judgeLatch s).1.detail }

/-- The Directive Decoder once a directive has been taken, its outcome record waiting or gone on (R148, R151). -/
def decoderTaken (dd : DirectiveDecoder) (holder : Option OutcomeRecord) : DirectiveDecoder :=
  { latch := dd.latch, marks := Vector.replicate 7 false, count := (dd.count + 1) % 65536, holder := holder }

theorem judgeLatch_keeps (s : State) : OwnerKeeps s (judgeLatch s).2 := by
  unfold judgeLatch
  split
  · exact OwnerKeeps.same s
  · split
    · exact OwnerKeeps.same s
    · exact ownDirective_keeps _ s

theorem takeDirective_eq (s : State) : s.takeDirective = (judgeLatch s).2.withDd (decoderTaken s.dd (some (goRecord s))) := rfl

section

variable {b : Nat} {s : State}

/-- With room in the queue the outcome record enters at once. -/
theorem takeGo_room (hb : s.tp.controlBase = some b) (room : s.tp.queue.length < 16) (w : WordWrite) : takeGo s w =
    { state := { (judgeLatch s).2 with
        dd := decoderTaken s.dd none
        tp := { (judgeLatch s).2.tp with
          queue := s.tp.queue ++ [{ addr := b + 0x20, words := outcomeWords (goRecord s), kind := .outcome }] } }
      data := w.data
      run := none
      stall := none } := by
  obtain ⟨-, -, -, -, base, queue, -, -, outstanding⟩ := judgeLatch_keeps s
  have free : 0 < freeEntries (judgeLatch s).2.tp := by
    simp only [freeEntries, queue, Config.queueEntries]
    omega
  rw [takeGo, takeDirective_eq]
  generalize (judgeLatch s).2 = u at *
  generalize goRecord s = r
  simp only [State.tryEnterOutcome, State.withDd_dd, decoderTaken, State.withDd_tp, if_pos free, State.enterOutcome, enqueue, queue,
    base, hb, spoilNotice_outcome]
  rfl

/-- With the queue full the outcome record waits, and the write is stalled (R165). -/
theorem takeGo_full (full : 16 ≤ s.tp.queue.length) (w : WordWrite) : takeGo s w =
    { state := { (judgeLatch s).2 with dd := decoderTaken s.dd (some (goRecord s)) }
      data := w.data
      run := none
      stall := some .outcome } := by
  have queue := (judgeLatch_keeps s).queue
  rw [takeGo, takeDirective_eq]
  generalize (judgeLatch s).2 = u at *
  generalize goRecord s = r
  have waits : ¬ 0 < freeEntries u.tp := by
    simp only [freeEntries, queue, Config.queueEntries]
    omega
  simp only [State.tryEnterOutcome, State.withDd_dd, decoderTaken, State.withDd_tp, waits, if_false]
  rfl

/-! ## A write of the mailbox whose last word is a full go word -/

/-- A full go word that ends a write: with room the write passes downstream. -/
theorem settle_go_room (running : Running b s) (clear : QueueClear s.tp.queue (b + 28) 4) (room : s.tp.queue.length < 16)
    (go : Word) {p : WriteProgress} (hold : p.hold = 0) :
    settleWrite (takeWords [{ addr := b + 28, data := go, enables := 0xF }] p s).1 []
        (takeWords [{ addr := b + 28, data := go, enables := 0xF }] p s).2 =
      { (judgeLatch s).2 with
        dd := decoderTaken s.dd none
        tp := { (judgeLatch s).2.tp with
          queue := s.tp.queue ++ [{ addr := b + 0x20, words := outcomeWords (goRecord s), kind := .outcome }]
          upstream := []
          outstanding := s.tp.outstanding ++ [.write p.addr] }
        ports := { s.ports with
          down := s.ports.down ++ [.write p.addr (p.taken ++ [{ addr := b + 28, data := go, enables := 0xF }])] } } := by
  have taken := takeWord_go running.2.1 go p.run
  rw [takeGo_room running.2.1 room] at taken
  obtain ⟨-, -, -, ports, -, -, -, -, outstanding⟩ := judgeLatch_keeps s
  have depth : holdDepth s.tp.queue { addr := b + 28, data := go, enables := 0xF } = 0 := holdDepth_clear clear
  rw [takeWords_cons _ _ _ _ (by rw [taken]), taken]
  simp only [takeWords_nil, settleWrite, depth, hold]
  simp only [State.withTp, State.sendDown, State.withPorts, outstanding, ports]
  rfl

/-- With the queue full the write stays at the port, stalled. -/
theorem settle_go_full (running : Running b s) (clear : QueueClear s.tp.queue (b + 28) 4) (full : 16 ≤ s.tp.queue.length)
    (go : Word) {p : WriteProgress} (hold : p.hold = 0) (rest : List WordWrite) :
    settleWrite (takeWords ({ addr := b + 28, data := go, enables := 0xF } :: rest) p s).1 []
        (takeWords ({ addr := b + 28, data := go, enables := 0xF } :: rest) p s).2 =
      { (judgeLatch s).2 with
        dd := decoderTaken s.dd (some (goRecord s))
        tp := { (judgeLatch s).2.tp with
          upstream := [.write { addr := p.addr, taken := p.taken ++ [{ addr := b + 28, data := go, enables := 0xF }]
                                todo := rest, run := none, hold := 0, stall := some .outcome }] } } := by
  have taken := takeWord_go running.2.1 go p.run
  rw [takeGo_full full] at taken
  have depth : holdDepth s.tp.queue { addr := b + 28, data := go, enables := 0xF } = 0 := holdDepth_clear clear
  rw [takeWords_stall _ _ _ _ .outcome (by rw [taken]), taken]
  simp only [settleWrite, depth, hold]
  rfl

end

/-! ## The go word alone -/

theorem goBurst_words {b : Nat} {s : State} (running : Running b s) (go : Word) : burstWords (goBurst b go) =
    [{ addr := b + 24, data := 0, enables := 0 }, { addr := b + 28, data := go, enables := 0xF }] := by
  have first : firstBeat (BitVec.ofNat 32 (b + 24)) = b + 24 := by
    rcases base_cases running with rfl | rfl | rfl | rfl <;> rfl
  simp only [burstWords, goBurst, first, beatWords, Beat.words, beatOf_low, beatOf_high]
  rfl

section

variable {b : Nat} {s : State}

/-- The word below a go word that is written alone is passed over. -/
theorem writeGo_eq (free : PortFree b s) (clear : QueueClear s.tp.queue b 32) (go : Word) : s.writeGo go =
    settleWrite
      (takeWords [{ addr := b + 28, data := go, enables := 0xF }]
        { newWrite (goBurst b go) with taken := [{ addr := b + 24, data := 0, enables := 0 }] } s).1 []
      (takeWords [{ addr := b + 28, data := go, enables := 0xF }]
        { newWrite (goBurst b go) with taken := [{ addr := b + 24, data := 0, enables := 0 }] } s).2 := by
  obtain ⟨running, upstream⟩ := free
  have skipped := takeWord_unwritten (s := s) (w := { addr := b + 24, data := 0, enables := 0 }) rfl none
  have depth : holdDepth s.tp.queue { addr := b + 24, data := 0, enables := 0 } = 0 :=
    holdDepth_clear (clear.sub (Nat.le_add_right _ _) (by dsimp only; omega))
  rw [State.writeGo, running.2.1]
  dsimp only
  rw [arrive_write upstream, goBurst_words running, takeWords_cons _ _ _ _ (by exact congrArg TakenWord.stall skipped)]
  have run : (newWrite (goBurst b go)).run = none := rfl
  simp only [run, skipped, passWord, depth]
  rfl

theorem goBurst_addr (running : Running b s) (go : Word) : (goBurst b go).addr.toNat = b + 24 := by
  rcases base_cases running with rfl | rfl | rfl | rfl <;> rfl

/-- A go word alone, the part ready for it. -/
theorem writeGo_room (h : DirectiveReady b s) (go : Word) : s.writeGo go =
    { (judgeLatch s).2 with
      dd := decoderTaken s.dd none
      tp := { (judgeLatch s).2.tp with
        queue := s.tp.queue ++ [{ addr := b + 0x20, words := outcomeWords (goRecord s), kind := .outcome }]
        outstanding := s.tp.outstanding ++ [.write (b + 24)] }
      ports := { s.ports with down := s.ports.down ++ [.write (b + 24) (burstWords (goBurst b go))] } } := by
  obtain ⟨free, clear, -, room⟩ := h
  obtain ⟨-, -, -, -, -, -, -, upstream, -⟩ := judgeLatch_keeps s
  rw [writeGo_eq free clear, settle_go_room free.1 (clear.sub (by omega) (by omega)) room go rfl]
  simp only [newWrite, goBurst_addr free.1, goBurst_words free.1, List.cons_append, List.nil_append]
  rw [← free.2, ← upstream]

/-- A go word alone, the insertion queue full. -/
theorem writeGo_full (free : PortFree b s) (clear : QueueClear s.tp.queue b 32) (full : 16 ≤ s.tp.queue.length) (go : Word) :
    s.writeGo go =
    { (judgeLatch s).2 with
      dd := decoderTaken s.dd (some (goRecord s))
      tp := { (judgeLatch s).2.tp with
        upstream := [.write { addr := b + 24, taken := burstWords (goBurst b go), todo := [], run := none, hold := 0
                              stall := some .outcome }] } } := by
  rw [writeGo_eq free clear, settle_go_full free.1 (clear.sub (by omega) (by omega)) full go rfl]
  simp only [newWrite, goBurst_addr free.1, goBurst_words free.1, List.cons_append, List.nil_append]

end

/-! ## What an owner looks at (R148) -/

/-- The mailbox latch and the insertion queue put into a state. -/
def withMail (s : State) (dd : DirectiveDecoder) (q : List QueueEntry) : State := { s with dd := dd, tp := { s.tp with queue := q } }

/-- No owner looks at the mailbox latch or at the insertion queue. -/
theorem judgeDirective_withMail (d : Directive) (s : State) (dd : DirectiveDecoder) (q : List QueueEntry) :
    judgeDirective d (withMail s dd q) = judgeDirective d s := by
  cases d <;> rfl

theorem haltSweep_withMail (s : State) (dd : DirectiveDecoder) (q : List QueueEntry) :
    (withMail s dd q).haltSweep = withMail s.haltSweep dd q := by
  by_cases idle : s.sc.state = .idle
  · rw [haltSweep_idle idle, haltSweep_idle (s := withMail s dd q) idle]
  · rw [haltSweep_running idle, haltSweep_running (s := withMail s dd q) idle]
    rfl

theorem applySweep_withMail (o : SweepOperands) (s : State) (dd : DirectiveDecoder) (q : List QueueEntry) :
    applySweep o (withMail s dd q) = withMail (applySweep o s) dd q := by
  by_cases now : (loadSweep o s.sc).trigger = .now
  · rw [applySweep_now now, applySweep_now (s := withMail s dd q) now]
    rfl
  · rw [applySweep_waiting now, applySweep_waiting (s := withMail s dd q) now]
    rfl

theorem applyDirective_withMail (d : Directive) (s : State) (dd : DirectiveDecoder) (q : List QueueEntry) :
    applyDirective d (withMail s dd q) = withMail (applyDirective d s) dd q := by
  cases d with
  | setWindows o => exact (applyWindows_eq o _).trans (congrArg (withMail · dd q) (applyWindows_eq o s).symm)
  | setGeometry o => exact (applyGeometry_eq o _).trans (congrArg (withMail · dd q) (applyGeometry_eq o s).symm)
  | setZones o => exact (applyZones_eq o _).trans (congrArg (withMail · dd q) (applyZones_eq o s).symm)
  | sweep o => exact applySweep_withMail o s dd q
  | halt => exact haltSweep_withMail s dd q
  | _ => rfl

theorem ownDirective_withMail (d : Directive) (s : State) (dd : DirectiveDecoder) (q : List QueueEntry) :
    ownDirective d (withMail s dd q) = withMail (ownDirective d s) dd q := by
  unfold ownDirective
  rw [judgeDirective_withMail, applyDirective_withMail]
  split <;> rfl

/-- The owner of a whole directive acts as on the state before it is written; the latch is the directive's. -/
theorem ownDirective_latched (d : Directive) (s : State) :
    ownDirective d (latched d s) = { ownDirective d s with dd := (latched d s).dd } := by
  have queue := (ownDirective_keeps d s).queue
  refine (ownDirective_withMail d s (latched d s).dd s.tp.queue).trans ?_
  rw [withMail, ← queue]

/-! ## A whole directive, with room and without -/

theorem judgeLatch_read {s : State} {d : Directive} (marks : s.dd.marks = Vector.replicate 7 true)
    (read : readDirective s.dd.latch = some d) : judgeLatch s = (judgeDirective d s, ownDirective d s) := by
  rw [judgeLatch, unmarkedWords_none marks, if_neg (not_not.mpr rfl), read]

theorem judgeLatch_latched (d : Directive) (s : State) : judgeLatch (latched d s) =
    (judgeDirective d s, { ownDirective d s with dd := (latched d s).dd }) := by
  rw [judgeLatch_read (s := latched d s) (d := d) rfl (readDirective_directiveWords d), judgeDirective_latched, ownDirective_latched]

theorem outcomeKind_read {dd : DirectiveDecoder} {d : Directive} (marks : dd.marks = Vector.replicate 7 true)
    (read : readDirective dd.latch = some d) : outcomeKind dd = kindCode d := by
  rw [outcomeKind, marks, ← readDirective_kind read]
  rfl

/-- The outcome record of a whole directive. -/
theorem goRecord_read {s : State} {d : Directive} (marks : s.dd.marks = Vector.replicate 7 true)
    (read : readDirective s.dd.latch = some d) : goRecord s = outcomeRecordOf d (judgeDirective d s) s := by
  rw [goRecord, judgeLatch_read marks read, outcomeKind_read marks read]
  rfl

/-- The record as the queue takes it, field by field (section 11.3). -/
theorem outcomeWords_eq (r : OutcomeRecord) (count : r.count < 65536) : outcomeWords r =
    [BitVec.ofNat 32 (r.kind.toNat + 256 * r.code.code), BitVec.ofNat 32 r.count, r.detail, 0, 0, 0, 0, 0] := by
  have first : place 0 8 r.kind.toNat ||| place 8 8 r.code.code = BitVec.ofNat 32 (r.kind.toNat + 256 * r.code.code) := by
    generalize r.code = c
    generalize r.kind = k
    revert k
    cases c <;> decide
  have second : place 0 16 r.count = BitVec.ofNat 32 r.count := by
    simp [place, Nat.mod_eq_of_lt count]
  rw [outcomeWords, first, second]

section

variable {b : Nat} {s : State}

/-- A whole directive, the insertion queue full: it is taken, its outcome record waits, and its write is stalled (R165). -/
theorem writeDirective_full (free : PortFree b s) (clear : QueueClear s.tp.queue b 32) (full : 16 ≤ s.tp.queue.length)
    (d : Directive) : s.writeDirective d =
    { ownDirective d s with
      dd := { decoderAfter d s with holder := some (outcomeRecordOf d (judgeDirective d s) s) }
      tp := { (ownDirective d s).tp with
        upstream := [.write { addr := b, taken := burstWords (directiveBurst b d), todo := [], run := none, hold := 0
                              stall := some .outcome }] } } := by
  obtain ⟨running, upstream⟩ := free
  have addr : (newWrite (directiveBurst b d)).addr = b := by
    rcases base_cases running with rfl | rfl | rfl | rfl <;> rfl
  have record : goRecord (latched d s) = outcomeRecordOf d (judgeDirective d s) s := by
    rw [goRecord_read (s := latched d s) (d := d) rfl (readDirective_directiveWords d), judgeDirective_latched]
    rfl
  rw [State.writeDirective, running.2.1]
  dsimp only
  rw [arrive_write upstream, directiveBurst_mail running, takeWords_mail _ _ 0 _ _ (by simp) running.2.1 clear rfl rfl, latchFrom_all]
  have settled := settle_go_full (s := latched d s) (b := b) running (clear.sub (by omega) (by omega)) full 0
    (p := { newWrite (directiveBurst b d) with taken := (newWrite (directiveBurst b d)).taken ++ mailWords b 0 (directiveWords d).toList })
    rfl []
  refine settled.trans ?_
  rw [record, judgeLatch_latched, addr]
  rfl

end

/-- A whole directive, the part ready for it, in the terms of its owner's verdict. -/
theorem writeDirective_room {b : Nat} {s : State} (h : DirectiveReady b s) (d : Directive) : s.writeDirective d =
    { ownDirective d s with
      dd := decoderAfter d s
      tp := { (ownDirective d s).tp with
        queue := s.tp.queue ++ [outcomeEntry b d (judgeDirective d s).code.code (judgeDirective d s).detail s]
        upstream := []
        outstanding := s.tp.outstanding ++ [.write b] }
      ports := { s.ports with down := s.ports.down ++ [.write b (burstWords (directiveBurst b d))] } } := by
  rw [writeDirective_ready h, judgeDirective_latched, ownDirective_latched]

theorem isTaken_eq_false {c : OutcomeCode} (taken : c ≠ .taken) (clamped : c ≠ .takenClamped) : c.isTaken = false := by
  cases c <;> simp_all [OutcomeCode.isTaken]

/-- Settles O21: one outcome, the owner's, whether its record enters at once or waits. -/
theorem everyDirectiveIsAnsweredOnce : Obligations.EveryDirectiveIsAnsweredOnce := by
  refine ⟨fun b s c d h hc => ?_, fun b s c d free clear holder full hc => ?_⟩
  · obtain ⟨⟨high, -⟩, upstream⟩ := h.1
    have written := exec_directive high hc
    rw [writeDirective_room h d] at written
    refine ⟨_, written, rfl, rfl, rfl, fun taken clamped => ?_⟩
    have refused : (judgeDirective d s).code.isTaken = false := isTaken_eq_false taken clamped
    exact (writeDirective_room h d).symm.trans (writeDirective_refused h d (v := judgeDirective d s) (judgeDirective_latched d s) refused)
  · obtain ⟨⟨high, base⟩, upstream⟩ := free
    -- the same directive, the queue emptied for it
    have ready : DirectiveReady b (withMail s s.dd []) := ⟨⟨⟨high, base⟩, upstream⟩, List.forall_mem_nil _, holder, Nat.zero_lt_succ _⟩
    have emptied := exec_directive (s := withMail s s.dd []) high hc
    rw [writeDirective_room ready d, ownDirective_withMail] at emptied
    have written := exec_directive high hc
    rw [writeDirective_full ⟨⟨high, base⟩, upstream⟩ clear full d] at written
    refine ⟨_, _, written, emptied, ?_, rfl, ?_, ?_⟩
    · rw [judgeDirective_withMail]
      rfl
    · have queue := (ownDirective_keeps d s).queue
      have outstanding := (ownDirective_keeps d s).outstanding
      rw [← queue, ← outstanding]
      rfl
    · exact (ownDirective_keeps d s).ports

/-! ## A go word that is refused (R148, R149) -/

/-- The unmarked words as a set of bits (section 11.3). -/
theorem unmarkedWords_eq (dd : DirectiveDecoder) : unmarkedWords dd =
    (if dd.marks[0] then 0 else 1) + (if dd.marks[1] then 0 else 2) + (if dd.marks[2] then 0 else 4)
      + (if dd.marks[3] then 0 else 8) + (if dd.marks[4] then 0 else 16) + (if dd.marks[5] then 0 else 32)
      + (if dd.marks[6] then 0 else 64) := by
  have marks : dd.marks.toList = [dd.marks[0], dd.marks[1], dd.marks[2], dd.marks[3], dd.marks[4], dd.marks[5], dd.marks[6]] := by
    refine List.ext_getElem (by simp) fun i h _ => ?_
    rw [Vector.length_toList] at h
    interval_cases i <;> simp
  rw [unmarkedWords, marks]
  simp only [List.range, List.range.loop, List.map_cons, List.map_nil, List.sum_cons, List.sum_nil, List.getD_cons_zero,
    List.getD_cons_succ, add_zero, ← add_assoc]
  rfl

/-- An incomplete latch, and one of a kind outside the catalogue, is refused and leaves every block alone. -/
theorem judgeLatch_refused {s : State} (h : unmarkedWords s.dd ≠ 0 ∨ s.dd.latch[0].extractLsb' 0 8 ∉ catalogue) : judgeLatch s =
    ({ code := if unmarkedWords s.dd ≠ 0 then .incomplete else .unknownKind, detail := unmarkedWords s.dd }, s) := by
  unfold judgeLatch
  by_cases incomplete : unmarkedWords s.dd ≠ 0
  · simp only [if_pos incomplete]
  · simp only [readDirective_none (h.resolve_left incomplete), not_not.mp incomplete]
    rfl

/-- The outcome record of a refused latch. -/
theorem goRecord_refused {s : State} (h : unmarkedWords s.dd ≠ 0 ∨ s.dd.latch[0].extractLsb' 0 8 ∉ catalogue) : goRecord s =
    { kind := if s.dd.marks[0] then s.dd.latch[0].extractLsb' 0 8 else 0
      code := if unmarkedWords s.dd ≠ 0 then .incomplete else .unknownKind
      count := (s.dd.count + 1) % 65536
      detail := BitVec.ofNat 32 (unmarkedWords s.dd) } := by
  rw [goRecord, judgeLatch_refused h]
  rfl

theorem exec_unknownKind {s : State} (high : s.resetLow = false) (go : Word) :
    exec (.unknownKind go) s = .next (s.writeGo go) :=
  congrArg Host.Outcome.next (whenRunning_high s _ high)

/-- Settles O20: the go word hands the latch to its owner, or refuses it, with room in the queue and without. -/
theorem goWordRefusesIncompleteAndUnknown : Obligations.GoWordRefusesIncompleteAndUnknown := by
  refine ⟨fun b s go code detail h hd hcode bad => ?_, fun b s go code detail free clear holder full hd hcode bad => ?_,
    fun b s go c d h hc marks read => ?_, fun b s go c d free clear holder full hc marks read => ?_⟩
  · rw [← unmarkedWords_eq] at hd
    subst hd hcode
    obtain ⟨⟨high, -⟩, -⟩ := h.1
    rw [exec_unknownKind high, writeGo_room h, goRecord_refused bad, judgeLatch_refused bad,
      outcomeWords_eq _ (Nat.mod_lt _ (by omega)), decoderTaken, ← h.2.2.1]
    split <;> split <;> rfl
  · rw [← unmarkedWords_eq] at hd
    subst hd hcode
    rw [exec_unknownKind free.1.1, writeGo_full free clear full, goRecord_refused bad, judgeLatch_refused bad]
    rfl
  · obtain ⟨⟨high, -⟩, upstream⟩ := h.1
    have written := exec_directive high hc
    rw [writeDirective_room h d] at written
    refine ⟨_, written, ?_⟩
    rw [exec_unknownKind high, writeGo_room h, goRecord_read marks read, judgeLatch_read marks read,
      outcomeWords_eq _ (Nat.mod_lt _ (by omega)), ← upstream, ← (ownDirective_keeps d s).upstream]
    rfl
  · have written := exec_directive free.1.1 hc
    rw [writeDirective_full free clear full d] at written
    refine ⟨_, written, ?_⟩
    rw [exec_unknownKind free.1.1, writeGo_full free clear full, goRecord_read marks read, judgeLatch_read marks read]
    rfl

end Sys2Proof.Proofs
end

section
/-! The clocks (chapter 3): the expiries that are due, a tick, an IOSC period, the loss of SREF and an index event. -/

namespace Sys2Proof.Proofs

open Sys2Proof.Machine

/-! ## The expiries that are due (R53, R58) -/

theorem timerDue_iff (t : SpindleMonitor) : timerDue t = true ↔ t.timerMode ≠ .off ∧ t.timerPeriod ≤ t.timerCounter := by
  simp only [timerDue, Bool.and_eq_true, decide_eq_true_eq]

theorem timeoutDue_iff (t : SpindleMonitor) : timeoutDue t = true ↔
    t.timebase = .external ∧ t.nominal ≠ 0 ∧ t.interval = 2 * t.nominal := by
  simp only [timeoutDue, Bool.and_eq_true, spindleJudged_iff, decide_eq_true_eq, and_assoc]

/-- An abort leaves the Sweep Controller IDLE; a sweep that ran is reported (R93). -/
theorem abortSweep_eq (s : State) (reason : AbortReason) : s.abortSweep reason = { s with
    sc := { s.sc with state := .idle }
    ra := if s.sc.state = .idle then s.ra
      else s.ra.raise .sweepAborted { place := some (s.sc.currentHead, s.sc.zone), a := reason.code, b := s.sc.state.code } } := by
  unfold State.abortSweep
  split
  · next idle => rw [← idle]
  · rfl

/-- A timeout that is due stops the spindle, and aborts a sweep when the spindle was not stopped (R53, R55, R93). -/
theorem settleTimeout_due {s : State} (due : timeoutDue s.tsm = true) : s.settleTimeout =
    let fault := s.ra.raise .spindleFault { place := none, a := 3, b := s.tsm.lastPeriod.getD 0 }
    { s with
      tsm := { s.tsm with lastIndex := false, spindle := .stopped }
      sc := if s.tsm.spindle = .stopped then s.sc else { s.sc with state := .idle }
      ra := if s.tsm.spindle = .stopped then s.ra else if s.sc.state = .idle then fault else fault.raise .sweepAborted
        { place := some (s.sc.currentHead, s.sc.zone), a := 2, b := s.sc.state.code } } := by
  rw [State.settleTimeout, if_pos due]
  by_cases stopped : s.tsm.spindle = .stopped
  · simp only [State.timeoutExpiry, State.setSpindle, State.withTsm, stopped, if_true]
  · simp only [State.timeoutExpiry, State.setSpindle, State.withTsm, stopped, if_false, abortSweep_eq]
    rfl

/-- A timeout that is not due, or that has been taken, is left alone. -/
theorem settleTimeout_taken {s : State} (h : s.tsm.timebase ≠ .external ∨ s.tsm.nominal = 0 ∨ s.tsm.interval ≠ 2 * s.tsm.nominal ∨
    (s.tsm.spindle = .stopped ∧ s.tsm.lastIndex = false)) : s.settleTimeout = s := by
  by_cases due : timeoutDue s.tsm = true
  · obtain ⟨external, nominal, interval⟩ := (timeoutDue_iff _).mp due
    obtain ⟨stopped, absent⟩ := ((h.resolve_left (not_not.mpr external)).resolve_left nominal).resolve_left (not_not.mpr interval)
    rw [settleTimeout_due due]
    simp only [if_pos stopped]
    rw [← stopped, ← absent]
  · exact if_neg due

/-- A timer that is due counts on from 0 or turns OFF, and starts the pass of a sweep ARMED on it (R58, R80, R81). -/
theorem settleTimer_due {s : State} (due : timerDue s.tsm = true) : s.settleTimer =
    let started := s.sc.state = .armed ∧ s.sc.trigger = .timer
    { s with
      tsm := { s.tsm with timerMode := if s.tsm.timerMode = .oneShot then .off else s.tsm.timerMode, timerCounter := 0 }
      sc := if started then
          { s.sc with
            state := .awaitHead
            currentHead := s.sc.firstHead
            revolutions := 0
            passNumber := min 65535 (s.sc.passNumber + 1) }
        else s.sc
      ra := if started then s.ra.raise .headRequest { place := some (s.sc.firstHead, s.sc.zone), a := 0, b := 0 } else s.ra } := by
  have running := ((timerDue_iff _).mp due).1
  have delivered : s.sweepTimer = if s.sc.state = .armed ∧ s.sc.trigger = .timer then s.startPass else s := rfl
  rw [State.settleTimer, if_pos due, State.timerExpired, sweepTimer_tsm, delivered, startPass_eq]
  cases mode : s.tsm.timerMode with
  | off => exact absurd mode running
  | oneShot =>
    dsimp only
    split <;> rfl
  | periodic =>
    dsimp only
    rw [if_neg (show ¬ TimerMode.periodic = .oneShot by decide), ← mode]
    split <;> rfl

/-- A timer that has been taken is not taken again: it does not start a second pass. -/
theorem settleTimer_taken {s : State} (h : timerDue s.tsm = true → s.tsm.timerMode ≠ .oneShot ∧ s.tsm.timerCounter = 0 ∧
    ¬ (s.sc.state = .armed ∧ s.sc.trigger = .timer)) : s.settleTimer = s := by
  by_cases due : timerDue s.tsm = true
  · obtain ⟨mode, counter, notStarted⟩ := h due
    rw [settleTimer_due due]
    simp only [if_neg mode, if_neg notStarted]
    rw [← counter]
  · exact if_neg due

/-- What the taking of the timer leaves of a timer that is still due. -/
theorem settleTimer_settled (s : State) (due : timerDue s.settleTimer.tsm = true) : s.settleTimer.tsm.timerMode ≠ .oneShot ∧
    s.settleTimer.tsm.timerCounter = 0 ∧ ¬ (s.settleTimer.sc.state = .armed ∧ s.settleTimer.sc.trigger = .timer) := by
  by_cases first : timerDue s.tsm = true
  · rw [settleTimer_due first]
    refine ⟨?_, rfl, ?_⟩
    · dsimp only
      split
      · exact TimerMode.noConfusion
      · assumption
    · dsimp only
      split
      · exact fun hc => SweepState.noConfusion hc.1
      · assumption
  · rw [State.settleTimer, if_neg first] at due
    exact absurd due first

/-- An index timeout leaves the timer alone, and arms no sweep. -/
theorem settleTimeout_keeps (s : State) : s.settleTimeout.tsm = { s.tsm with
      lastIndex := s.settleTimeout.tsm.lastIndex, spindle := s.settleTimeout.tsm.spindle } ∧
    s.settleTimeout.sc.trigger = s.sc.trigger ∧ (s.settleTimeout.sc.state = .armed → s.sc.state = .armed) := by
  by_cases due : timeoutDue s.tsm = true
  · rw [settleTimeout_due due]
    refine ⟨rfl, ?_, fun armed => ?_⟩
    · dsimp only
      split <;> rfl
    · dsimp only at armed
      split at armed
      · exact armed
      · exact SweepState.noConfusion armed
  · rw [State.settleTimeout, if_neg due]
    exact ⟨rfl, rfl, id⟩

/-- The expiries taken are not due again (R53, R58). -/
theorem settleExpiries_settled (s : State) : s.settleExpiries.settleExpiries = s.settleExpiries := by
  obtain ⟨tsm, trigger, armed⟩ := settleTimeout_keeps s.settleTimer
  have timer : s.settleExpiries.settleTimer = s.settleExpiries := by
    refine settleTimer_taken fun due => ?_
    have sameTimer : timerDue s.settleTimer.settleTimeout.tsm = timerDue s.settleTimer.tsm := by
      rw [tsm]
      rfl
    obtain ⟨mode, counter, notStarted⟩ := settleTimer_settled s (sameTimer ▸ due)
    refine ⟨?_, ?_, fun hc => notStarted ⟨armed hc.1, trigger ▸ hc.2⟩⟩
    · rw [State.settleExpiries, tsm]
      exact mode
    · rw [State.settleExpiries, tsm]
      exact counter
  rw [State.settleExpiries, timer]
  refine settleTimeout_taken ?_
  by_cases due : timeoutDue s.settleTimer.tsm = true
  · rw [State.settleExpiries, settleTimeout_due due]
    exact .inr (.inr (.inr ⟨rfl, rfl⟩))
  · rw [timeoutDue_iff] at due
    rw [State.settleExpiries, tsm]
    dsimp only
    tauto

/-- The timer leaves the level of RESET and the waiting commands alone. -/
theorem settleTimer_frame (s : State) : s.settleTimer.resetLow = s.resetLow ∧ s.settleTimer.pending = s.pending := by
  by_cases due : timerDue s.tsm = true
  · rw [settleTimer_due due]
    exact ⟨rfl, rfl⟩
  · rw [State.settleTimer, if_neg due]
    exact ⟨rfl, rfl⟩

theorem settleTimeout_frame (s : State) : s.settleTimeout.resetLow = s.resetLow ∧ s.settleTimeout.pending = s.pending := by
  by_cases due : timeoutDue s.tsm = true
  · rw [settleTimeout_due due]
    exact ⟨rfl, rfl⟩
  · rw [State.settleTimeout, if_neg due]
    exact ⟨rfl, rfl⟩

section

variable {s : State} (high : s.resetLow = false)
include high

theorem exec_timerExpiry : exec .timerExpiry s = .next s.settleTimer := congrArg Host.Outcome.next (whenRunning_high s _ high)

theorem exec_indexTimeout : exec .indexTimeout s = .next s.settleTimeout := congrArg Host.Outcome.next (whenRunning_high s _ high)

theorem exec_tick : exec .tick s = .next (s.withTsm { s.tsm with lossCount := 0 }).endTick :=
  congrArg Host.Outcome.next (whenRunning_high s _ high)

theorem exec_srefLoss : exec .srefLoss s = .next (if s.tsm.timebase = .external then s.settleExpiries.loseReference else s) :=
  congrArg Host.Outcome.next (whenRunning_high s _ high)

theorem exec_srefRisingEdge : exec .srefRisingEdge s = .next s.srefEdge := congrArg Host.Outcome.next (whenRunning_high s _ high)

theorem exec_indexEvent (e : Edge) : exec (.indexEvent e) s = .next (if e = s.tsm.edge then s.indexEdge else s) :=
  congrArg Host.Outcome.next (whenRunning_high s _ high)

/-- TIMER_EXPIRY and INDEX_TIMEOUT one after the other take the expiries that are due. -/
theorem exec_expiries : ∃ t u, exec .timerExpiry s = .next t ∧ exec .indexTimeout t = .next u ∧ u = s.settleExpiries :=
  ⟨_, _, exec_timerExpiry high, exec_indexTimeout ((settleTimer_frame s).1.trans high), rfl⟩

end

/-- Settles O31: the timer that is due, and the timer that is not. -/
theorem timerExpiryStartsAPass : Obligations.TimerExpiryStartsAPass := by
  refine fun s high => ⟨fun notDue => ?_, fun mode due => ?_⟩
  · rw [exec_timerExpiry high, State.settleTimer_idle notDue]
  · rw [exec_timerExpiry high, settleTimer_due ((timerDue_iff _).mpr ⟨mode, due⟩)]

/-- Settles O30: the timeout that is due, and the timeout that is not. -/
theorem indexTimeoutStopsTheSpindle : Obligations.IndexTimeoutStopsTheSpindle := by
  refine fun s high => ⟨fun notDue => ?_, fun external nominal interval => ?_⟩
  · rw [exec_indexTimeout high, State.settleTimeout_idle notDue]
  · rw [exec_indexTimeout high, settleTimeout_due ((timeoutDue_iff _).mpr ⟨external, nominal, interval⟩)]

/-! ## The loss of SREF (R46, R49, R93) -/

theorem loseReference_eq (s : State) : s.loseReference =
    let lost := s.ra.raise .referenceLost { place := none, a := 0, b := 0 }
    { s with
      tsm := { s.tsm with
        timebase := .fallback
        lossCount := 0
        prescaleCounter := 0
        timerCounter := 0
        lastIndex := false
        interval := 0
        lastPeriod := none
        spindle := .unknown }
      sc := { s.sc with state := .idle }
      ra := if s.sc.state = .idle then lost else lost.raise .sweepAborted
        { place := some (s.sc.currentHead, s.sc.zone), a := 1, b := s.sc.state.code } } := by
  rw [State.loseReference, abortSweep_eq]
  rfl

/-- The expiries leave the timebase alone. -/
theorem settleExpiries_timebase (s : State) : s.settleExpiries.tsm.timebase = s.tsm.timebase := by
  rw [State.settleExpiries, (settleTimeout_keeps _).1]
  by_cases due : timerDue s.tsm = true
  · rw [settleTimer_due due]
  · rw [State.settleTimer, if_neg due]

theorem settleExpiries_frame (s : State) : s.settleExpiries.resetLow = s.resetLow ∧ s.settleExpiries.pending = s.pending := by
  obtain ⟨low, pending⟩ := settleTimer_frame s
  obtain ⟨low', pending'⟩ := settleTimeout_frame s.settleTimer
  exact ⟨low'.trans low, pending'.trans pending⟩

/-- With no expiry due, or a timeout due that has been taken, nothing is taken. -/
theorem settleExpiries_taken {s : State} (timer : s.tsm.timerMode = .off ∨ s.tsm.timerCounter < s.tsm.timerPeriod)
    (timeout : s.tsm.timebase ≠ .external ∨ s.tsm.nominal = 0 ∨ s.tsm.interval ≠ 2 * s.tsm.nominal ∨
      (s.tsm.spindle = .stopped ∧ s.tsm.lastIndex = false)) : s.settleExpiries = s := by
  rw [State.settleExpiries, State.settleTimer_idle timer, settleTimeout_taken timeout]

/-- Settles O29: the expiries first, then FALLBACK, the restart and the abort. -/
theorem srefLossFallsBackAndAborts : Obligations.SrefLossFallsBackAndAborts := by
  refine fun s high => ⟨fun notExternal => ?_, fun external timer timeout => ?_, fun external => ?_⟩
  · rw [exec_srefLoss high, if_neg notExternal]
  · rw [exec_srefLoss high, if_pos external, settleExpiries_taken timer (.inr timeout), loseReference_eq]
  · obtain ⟨t, u, first, second, rfl⟩ := exec_expiries high
    refine ⟨t, _, first, second, ?_⟩
    rw [exec_srefLoss high, exec_srefLoss ((settleExpiries_frame s).1.trans high), settleExpiries_timebase, settleExpiries_settled]
    simp only [if_pos external]

/-! ## A tick and an IOSC period (R44, R45, R48, R50, R57) -/

/-- The expiries do not look at the loss count. -/
theorem settleExpiries_lossCount (s : State) : (s.withTsm { s.tsm with lossCount := 0 }).settleExpiries =
    s.settleExpiries.withTsm { s.settleExpiries.tsm with lossCount := 0 } := by
  have timer : (s.withTsm { s.tsm with lossCount := 0 }).settleTimer =
      s.settleTimer.withTsm { s.settleTimer.tsm with lossCount := 0 } := by
    by_cases due : timerDue s.tsm = true
    · rw [settleTimer_due due, settleTimer_due (s := s.withTsm { s.tsm with lossCount := 0 }) due]
      rfl
    · rw [State.settleTimer, State.settleTimer, if_neg due]
      exact if_neg due
  rw [State.settleExpiries, State.settleExpiries, timer]
  generalize s.settleTimer = t
  by_cases due : timeoutDue t.tsm = true
  · rw [settleTimeout_due due, settleTimeout_due (s := t.withTsm { t.tsm with lossCount := 0 }) due]
    rfl
  · rw [State.settleTimeout, State.settleTimeout, if_neg due]
    exact if_neg due

/-- TICK in every state: the expiries, then the counts. -/
theorem exec_tick_eq {s : State} (high : s.resetLow = false) : exec .tick s = .next { s.settleExpiries with
    tsm := { s.settleExpiries.tsm with
      prescaleCounter := 0
      lossCount := 0
      interval := min 16777215 (s.settleExpiries.tsm.interval + 1)
      timerCounter := if s.settleExpiries.tsm.timerMode = .off then 0 else s.settleExpiries.tsm.timerCounter + 1 } } := by
  rw [exec_tick high, State.endTick, settleExpiries_lossCount]
  rfl

/-- Settles O27: a tick counts after the expiries, which are not due again. -/
theorem tickCountsIntervalAndTimer : Obligations.TickCountsIntervalAndTimer := by
  refine fun s high => ⟨fun timer timeout => ?_, ?_⟩
  · rw [exec_tick_eq high, settleExpiries_taken timer timeout]
  · obtain ⟨t, u, first, second, rfl⟩ := exec_expiries high
    refine ⟨t, _, first, second, ?_⟩
    rw [exec_tick_eq high, exec_tick_eq ((settleExpiries_frame s).1.trans high), settleExpiries_settled]

/-- Settles O28: in EXTERNAL an edge clears the loss count and advances the prescale counter. -/
theorem srefEdgeAdvancesTheTick : Obligations.SrefEdgeAdvancesTheTick := by
  refine fun s high => ⟨fun notExternal => ?_, fun external short => ?_, fun external full => ?_⟩
  · rw [exec_srefRisingEdge high, State.srefEdge]
    cases timebase : s.tsm.timebase with
    | external => exact absurd timebase notExternal
    | internal | fallback => rfl
  · rw [exec_srefRisingEdge high, State.srefEdge, external]
    exact congrArg Host.Outcome.next (if_pos short)
  · rw [exec_srefRisingEdge high, State.srefEdge, external, exec_tick high]
    exact congrArg Host.Outcome.next (if_neg (not_lt.mpr full))

theorem step_idle {s : State} (pending : s.pending = []) (high : s.resetLow = false) : step s = .next s.settleExpiries.ioscPeriod := by
  rw [step, pending]
  exact congrArg Host.Outcome.next (whenRunning_high s _ high)

theorem ioscPeriod_other {s : State} (notExternal : s.tsm.timebase ≠ .external) : s.ioscPeriod = s.clockPeriod := by
  rw [State.ioscPeriod]
  cases timebase : s.tsm.timebase with
  | external => exact absurd timebase notExternal
  | internal | fallback => rfl

/-- Settles O26: an idle step is one period of IOSC after the expiries. -/
theorem idleStepIsOneOscillatorPeriod : Obligations.IdleStepIsOneOscillatorPeriod := by
  refine fun s pending high => ⟨fun timer timeout => ?_, ?_⟩
  · have idle := step_idle pending high
    rw [settleExpiries_taken timer timeout] at idle
    refine ⟨fun external short => ?_, fun external lost => ?_, fun other short => ?_, fun other zero full => ?_⟩
    · rw [idle, State.ioscPeriod, external]
      exact congrArg Host.Outcome.next (if_pos short)
    · rw [idle, State.ioscPeriod, exec_srefLoss high, if_pos external, settleExpiries_taken timer timeout, external]
      exact congrArg Host.Outcome.next (if_neg (not_lt.mpr lost))
    · rw [idle, ioscPeriod_other other]
      exact congrArg Host.Outcome.next (if_pos short)
    · rw [idle, ioscPeriod_other other, exec_tick high, ← zero]
      exact congrArg Host.Outcome.next (if_neg (not_lt.mpr full))
  · obtain ⟨t, u, first, second, rfl⟩ := exec_expiries high
    obtain ⟨low, waiting⟩ := settleExpiries_frame s
    refine ⟨t, _, first, second, ?_⟩
    rw [step_idle pending high, step_idle (waiting.trans pending) (low.trans high), settleExpiries_settled]

/-! ## An index event (R51 to R55, R60) -/

/-- A change into UNKNOWN is not reported (R55). -/
theorem setSpindle_unknown (s : State) (period : Nat) :
    s.setSpindle .unknown period = { s with tsm := { s.tsm with spindle := .unknown } } := by
  unfold State.setSpindle
  dsimp only
  split <;> rfl

/-- A change into AT_SPEED or OFF_SPEED is reported with the period (R55). -/
theorem setSpindle_judged (s : State) (good : Prop) [Decidable good] (period : Nat) :
    let new := if good then SpindleState.atSpeed else SpindleState.offSpeed
    s.setSpindle new period = { s with
      tsm := { s.tsm with spindle := new }
      ra := if s.tsm.spindle = new then s.ra
        else if good then s.ra.raise .spindleReady { place := none, a := period, b := 0 }
        else s.ra.raise .spindleFault { place := none, a := 2, b := period } } := by
  unfold State.setSpindle
  by_cases hg : good
  · simp only [if_pos hg]
    split <;> rfl
  · simp only [if_neg hg]
    split <;> rfl

/-- The spindle check of an event without an index time. -/
theorem spindleCheck_absent {s : State} (h : s.tsm.lastIndex = false) :
    s.spindleCheck = { s with tsm := { s.tsm with spindle := .unknown } } := by
  rw [State.spindleCheck, if_neg (by rw [h]; decide), setSpindle_unknown]

/-- The spindle check of an event with an index time, by the interval read. -/
theorem spindleCheck_present {s : State} (h : s.tsm.lastIndex = true) : s.spindleCheck =
    let period := s.tsm.interval
    let good := ((period : Int) - s.tsm.nominal).natAbs * 1024 ≤ s.tsm.tolerance * s.tsm.nominal
    let new := if good then SpindleState.atSpeed else SpindleState.offSpeed
    { s with
      tsm := { s.tsm with lastPeriod := some period, spindle := new }
      ra := if s.tsm.spindle = new then s.ra
        else if good then s.ra.raise .spindleReady { place := none, a := period, b := 0 }
        else s.ra.raise .spindleFault { place := none, a := 2, b := period } } := by
  rw [State.spindleCheck, if_pos h]
  simp only [withinTolerance, decide_eq_true_eq]
  exact setSpindle_judged _ _ _

/-- What an index event does once the Sweep Controller has had it: the timeout that is due, the check, the interval back to 0. -/
def afterDelivery (d : State) : State :=
  let delivered := d.settleTimeout
  State.recordIndex (if spindleJudged delivered.tsm then delivered.spindleCheck else delivered)

theorem indexEdge_eq (s : State) : s.indexEdge = afterDelivery s.sweepIndex := rfl

section

variable {d : State}

/-- In INTERNAL and FALLBACK, and with P unset, no index time is recorded. -/
theorem afterDelivery_unjudged (h : d.tsm.timebase ≠ .external ∨ d.tsm.nominal = 0) :
    afterDelivery d = { d with tsm := { d.tsm with interval := 0, lastIndex := false } } := by
  have notJudged : spindleJudged d.tsm = false := by
    rw [← Bool.not_eq_true, spindleJudged_iff]
    tauto
  have idle : d.settleTimeout = d := State.settleTimeout_idle (h.imp_right .inl)
  simp only [afterDelivery, idle, notJudged, Bool.false_eq_true, if_false, State.recordIndex]
  rfl

variable (external : d.tsm.timebase = .external) (nominal : d.tsm.nominal ≠ 0)
include external nominal

/-- The first index time is recorded, the spindle UNKNOWN. -/
theorem afterDelivery_first (interval : d.tsm.interval ≠ 2 * d.tsm.nominal) (absent : d.tsm.lastIndex = false) :
    afterDelivery d = { d with tsm := { d.tsm with interval := 0, lastIndex := true, spindle := .unknown } } := by
  have judged : spindleJudged d.tsm = true := (spindleJudged_iff _).mpr ⟨external, nominal⟩
  have idle : d.settleTimeout = d := State.settleTimeout_idle (.inr (.inr interval))
  simp only [afterDelivery, idle, if_pos judged, spindleCheck_absent absent, State.recordIndex]
  rw [show spindleJudged { d.tsm with spindle := .unknown } = true from judged]
  rfl

/-- A further index time is recorded, and the spindle judged by the interval. -/
theorem afterDelivery_judged (interval : d.tsm.interval ≠ 2 * d.tsm.nominal) (present : d.tsm.lastIndex = true) : afterDelivery d =
    let period := d.tsm.interval
    let good := ((period : Int) - d.tsm.nominal).natAbs * 1024 ≤ d.tsm.tolerance * d.tsm.nominal
    let new := if good then SpindleState.atSpeed else SpindleState.offSpeed
    { d with
      tsm := { d.tsm with interval := 0, lastIndex := true, lastPeriod := some period, spindle := new }
      ra := if d.tsm.spindle = new then d.ra
        else if good then d.ra.raise .spindleReady { place := none, a := period, b := 0 }
        else d.ra.raise .spindleFault { place := none, a := 2, b := period } } := by
  have judged : spindleJudged d.tsm = true := (spindleJudged_iff _).mpr ⟨external, nominal⟩
  have idle : d.settleTimeout = d := State.settleTimeout_idle (.inr (.inr interval))
  have after (p : Option Nat) (new : SpindleState) : spindleJudged { d.tsm with lastPeriod := p, spindle := new } = true := judged
  rw [afterDelivery, idle]
  dsimp only
  rw [if_pos judged, spindleCheck_present present]
  simp only [State.recordIndex, after]
  rfl

/-- An index timeout that is due is taken before the check, which finds no index time. -/
theorem afterDelivery_timeout (interval : d.tsm.interval = 2 * d.tsm.nominal) : afterDelivery d =
    let fault := d.ra.raise .spindleFault { place := none, a := 3, b := d.tsm.lastPeriod.getD 0 }
    { d with
      tsm := { d.tsm with interval := 0, lastIndex := true, spindle := .unknown }
      sc := if d.tsm.spindle = .stopped then d.sc else { d.sc with state := .idle }
      ra := if d.tsm.spindle = .stopped then d.ra else if d.sc.state = .idle then fault else fault.raise .sweepAborted
        { place := some (d.sc.currentHead, d.sc.zone), a := 2, b := d.sc.state.code } } := by
  have judged (last : Bool) (new : SpindleState) : spindleJudged { d.tsm with lastIndex := last, spindle := new } = true :=
    (spindleJudged_iff _).mpr ⟨external, nominal⟩
  have due := settleTimeout_due ((timeoutDue_iff _).mpr ⟨external, nominal, interval⟩)
  dsimp only at due
  rw [afterDelivery, due]
  dsimp only
  rw [if_pos (judged _ _), spindleCheck_absent rfl]
  simp only [State.recordIndex, judged]
  rfl

end

/-! ## The index event at the Sweep Controller (R80, R81, R88 to R90) -/

theorem sweepIndex_tsm (s : State) : s.sweepIndex.tsm = s.tsm :=
  (sweepSteps_of_pieces (P := fun t => t.tsm = s.tsm) (fun _ _ h => h) (fun _ _ h => h) (fun _ _ _ h => h) fun t r h _ => by
    rw [enterResult_eq]
    exact h).sweepIndex rfl

section

variable {s : State}

theorem sweepIndex_armed (armed : s.sc.state = .armed) : s.sweepIndex = if s.sc.trigger = .index then s.startPass else s := by
  rw [State.sweepIndex, armed]

/-- A wait and a measurement freeze while a record waits in the result holder. -/
theorem sweepIndex_frozen (waits : s.sc.state = .awaitHead ∨ s.sc.state = .measuring) (holder : s.sc.holder ≠ none) :
    s.sweepIndex = s := by
  have occupied : s.sc.holder.isNone = false := by
    rw [← Bool.not_eq_true, Option.isNone_iff_eq_none]
    exact holder
  rcases waits with waits | waits <;> simp only [State.sweepIndex, waits, occupied] <;> rfl

/-- The close that the deadline causes (R89). -/
def deadlineCause (st : SweepState) : CloseCause := if st = .awaitHead then .noHead else .short

/-- A wait and a measurement count the revolution, and close at the deadline. -/
theorem sweepIndex_counts (waits : s.sc.state = .awaitHead ∨ s.sc.state = .measuring) (holder : s.sc.holder = none) :
    s.sweepIndex =
      let counted : State := { s with sc := { s.sc with revolutions := min 255 (s.sc.revolutions + 1) } }
      if s.sc.deadline ≤ min 255 (s.sc.revolutions + 1) then counted.closeCell (deadlineCause s.sc.state) else counted := by
  have empty : s.sc.holder.isNone = true := by rw [holder]; rfl
  rcases waits with waits | waits <;> simp only [State.sweepIndex, waits, empty, if_true] <;> rfl

theorem sweepIndex_idle (idle : s.sc.state = .idle) : s.sweepIndex = s := by
  rw [State.sweepIndex, idle]

end

/-- Settles O32: the other edge is ignored, and the active edge judges the spindle by the interval read. -/
theorem indexEventJudgesTheSpindle : Obligations.IndexEventJudgesTheSpindle := by
  refine ⟨fun s e high other => by rw [exec_indexEvent high, if_neg other], fun s e high idle notDue => ?_⟩
  have event (active : e = s.tsm.edge) : exec (.indexEvent e) s = .next (afterDelivery s) := by
    rw [exec_indexEvent high, if_pos active, indexEdge_eq, sweepIndex_idle idle]
  refine ⟨fun active unjudged => ?_, fun active external nominal absent => ?_, fun active external nominal present => ?_⟩
  · rw [event active, afterDelivery_unjudged unjudged]
  · have interval := (notDue.resolve_left (not_not.mpr external)).resolve_left nominal
    rw [event active, afterDelivery_first external nominal interval absent]
  · have interval := (notDue.resolve_left (not_not.mpr external)).resolve_left nominal
    rw [event active, afterDelivery_judged external nominal interval present]

/-- Settles O33: the delivery in each sweep state, then the spindle judged as without a sweep. -/
theorem indexEventDrivesTheSweep : Obligations.IndexEventDrivesTheSweep := by
  intro s high
  have tsm := sweepIndex_tsm s
  have event : exec (.indexEvent s.tsm.edge) s = .next (afterDelivery s.sweepIndex) := by
    rw [exec_indexEvent high, if_pos rfl, indexEdge_eq]
  refine ⟨s.sweepIndex, ⟨?_, fun armed trigger => ?_, fun waits holder short => ?_, fun waits holder deadline => ?_,
    fun waits holder deadline => ?_⟩, fun unjudged => ?_, fun external nominal interval absent => ?_,
    fun external nominal interval present => ?_, fun external nominal interval => ?_⟩
  · rintro (idle | ⟨armed, trigger⟩ | ⟨waits, holder⟩)
    · exact sweepIndex_idle idle
    · rw [sweepIndex_armed armed, if_neg trigger]
    · exact sweepIndex_frozen waits holder
  · rw [sweepIndex_armed armed, if_pos trigger, startPass_eq]
    rfl
  · rw [sweepIndex_counts waits holder]
    exact if_neg (not_le.mpr short)
  · rw [sweepIndex_counts (.inl waits) holder, waits]
    exact if_pos deadline
  · rw [sweepIndex_counts (.inr waits) holder, waits]
    exact if_pos deadline
  all_goals rw [event]
  · rw [afterDelivery_unjudged (by rwa [tsm]), tsm]
  · rw [afterDelivery_first (by rwa [tsm]) (by rwa [tsm]) (by rwa [tsm]) (by rwa [tsm]), tsm]
  · rw [afterDelivery_judged (by rwa [tsm]) (by rwa [tsm]) (by rwa [tsm]) (by rwa [tsm]), tsm]
  · rw [afterDelivery_timeout (by rwa [tsm]) (by rwa [tsm]) (by rwa [tsm]), tsm]

end Sys2Proof.Proofs
end

section
/-! A step, device reset, and the reports: raises, the insertion queue's ends, an insert fault and a grant (chapters 8 and 10). -/

namespace Sys2Proof.Proofs

open Sys2Proof.Machine

/-! ## A step and device reset (R157, R167) -/

/-- Settles O1: a step is `exec` of the front command. -/
theorem stepRunsFrontCommand : Obligations.StepRunsFrontCommand := by
  intro c rest s h
  rw [step, h]

/-- Settles O23: the blocks at device reset, field by field. -/
theorem resetLeavesTheStatedValues : Obligations.ResetLeavesTheStatedValues := by
  refine ⟨rfl, fun h => ?_, ⟨rfl, rfl, rfl, rfl, rfl⟩, rfl, fun c => ?_, rfl, rfl, fun k => ⟨?_, ?_⟩,
    ⟨rfl, rfl, rfl, rfl, rfl, rfl, rfl, fun n => ?_⟩, rfl, ⟨rfl, rfl, rfl⟩⟩
  · exact Vector.getElem_replicate h.isLt
  · exact Vector.getElem_replicate c.isLt
  · exact Vector.getElem_replicate k.index.isLt
  · exact Vector.getElem_replicate k.index.isLt
  · exact Vector.getElem_replicate n.isLt

/-- Settles O24: every transaction without a response is ended, and every block is as at reset. -/
theorem resetAssertEndsTransactionsAndClears : Obligations.ResetAssertEndsTransactionsAndClears := by
  intro s
  refine ⟨_, rfl, rfl, rfl, rfl, congrArg₂ (· ++ ·) (congrArg (s.ports.up ++ ·) ?_) ?_⟩
  · refine List.map_congr_left fun x _ => ?_
    cases x <;> rfl
  · refine List.map_congr_left fun x _ => ?_
    cases x <;> rfl

/-- While RESET is low a command other than the two of RESET does nothing (R62). -/
theorem exec_low {s : State} (low : s.resetLow = true) {c : Instr} (assert : c ≠ .resetAssert)
    (release : ∀ x y, c ≠ .resetRelease x y) : exec c s = .next s := by
  cases c with
  | resetAssert => exact absurd rfl assert
  | resetRelease x y => exact absurd rfl (release x y)
  | _ => exact congrArg Host.Outcome.next (whenRunning_low s _ low)

/-- Settles O25: the straps are looked at by RESET_RELEASE alone, while RESET is low. -/
theorem resetReleasePlacesTheControlRegion : Obligations.ResetReleasePlacesTheControlRegion := by
  refine ⟨fun s strap1 strap0 => ?_, fun s c low assert release => exec_low low assert release⟩
  cases strap1 <;> cases strap0 <;> rfl

/-! ## A raise (R134, R135) -/

/-- Settles O36: a raise by the enable and the entry of its kind. -/
theorem raiseCreatesOrUpdatesTheEntry : Obligations.RaiseCreatesOrUpdatesTheEntry := by
  intro ra k d
  have entry := ReportArbiter.raise_entry ra
  refine ⟨?_, fun j other => ?_, fun masked => ?_, fun enabled absent => ?_, fun e enabled pending => ⟨mergeDetail k e.detail d, ?_, ?_⟩⟩
  · rw [ReportArbiter.raise_frame]
  · rw [entry, if_neg fun hc => other hc.1]
  · rw [ReportArbiter.raise, masked]
    rfl
  · rw [entry, if_pos ⟨rfl, enabled⟩, absent]
    rfl
  · rw [entry, if_pos ⟨rfl, enabled⟩, pending]
    rfl
  · cases k <;> rfl

/-! ## The ends of the insertion queue (R143, R162) -/

theorem beatOf_append (u l : Word) : beatOf u l = u ++ l := by
  apply BitVec.eq_of_toNat_eq
  have hu := u.isLt
  have hl := l.isLt
  rw [BitVec.toNat_append, beatOf, BitVec.toNat_ofNat, Nat.shiftLeft_eq, ← Nat.shiftLeft_eq, ← Nat.shiftLeft_add_eq_or_of_lt hl,
    Nat.shiftLeft_eq]
  omega

section

variable {s : State} (high : s.resetLow = false)
include high

theorem exec_insertIssue : exec .insertIssue s = .next s.issueInsert := congrArg Host.Outcome.next (whenRunning_high s _ high)

theorem exec_insertWriteOkay : exec .insertWriteOkay s = .next s.insertOkay := congrArg Host.Outcome.next (whenRunning_high s _ high)

theorem exec_insertWriteError : exec .insertWriteError s = .next s.insertError :=
  congrArg Host.Outcome.next (whenRunning_high s _ high)

theorem exec_reportGrant : exec .reportGrant s = .next s.tryGrant := congrArg Host.Outcome.next (whenRunning_high s _ high)

end

/-- No record is in flight. -/
theorem flying_none {tp : TransferPath} (h : tp.inFlight = false ∨ tp.queue = []) : flying tp = none := by
  rw [Option.eq_none_iff_forall_ne_some]
  intro e he
  obtain ⟨inFlight, rest, queue⟩ := (flying_eq_some tp e).mp he
  rcases h with h | h
  · rw [h] at inFlight
    cases inFlight
  · rw [h] at queue
    cases queue

/-- The answer of the record in flight (R143, R162, R164). -/
theorem popQueue_eq {tp : TransferPath} {e : QueueEntry} {rest : List QueueEntry} (queue : tp.queue = e :: rest) : popQueue tp =
    { tp with
      queue := rest
      inFlight := false
      upstream := tp.upstream.map fun x => match x with
        | .write p => .write { p with hold := p.hold - 1 }
        | .read r => .read r } := by
  have lower : lowerHold = fun x => match x with
      | .write p => .write { p with hold := p.hold - 1 }
      | .read r => .read r := by
    funext x
    cases x <;> rfl
  rw [popQueue, queue, lower]
  rfl

/-- Suppression ends with an OKAY, and faults held under it are raised once (R143). -/
theorem insertOkay_eq (ra : ReportArbiter) : ra.insertOkay =
    if ra.suppressed = false then ra
    else if ra.tally = 0 then { ra with suppressed := false }
    else { ra with suppressed := false }.raise .insertFault
      { place := none, a := ra.latestAddr.getD 0, b := (ra.latestKind.map InsertKind.code).getD 0 } := by
  unfold ReportArbiter.insertOkay
  by_cases held : ra.suppressed = false
  · rw [if_pos held, if_neg (by rw [held]; exact Bool.false_ne_true)]
  · rw [if_neg held, if_pos (Bool.eq_true_of_not_eq_false held)]
    by_cases zero : ra.tally = 0
    · rw [if_pos zero, if_neg (by omega)]
    · rw [if_neg zero, if_pos (by omega)]
      rfl

/-- Settles O34: the front record is issued alone, and OKAY frees its entry. -/
theorem insertionQueueDeliversInOrder : Obligations.InsertionQueueDeliversInOrder := by
  refine fun s e rest high => ⟨fun queue idle => ?_, fun h => ?_, fun h => ?_, fun queue inFlight => ?_⟩
  · rw [exec_insertIssue high, State.issueInsert, idle, queue]
    simp only [recordBurst, recordBeat, beatOf_append]
    rfl
  · rw [exec_insertIssue high, State.issueInsert]
    rcases h with h | h <;> rw [h]
    cases s.tp.inFlight <;> rfl
  · rw [exec_insertWriteOkay high, State.insertOkay, flying_none h]
  · rw [exec_insertWriteOkay high, State.insertOkay, (flying_eq_some s.tp e).mpr ⟨inFlight, rest, queue⟩]
    exact congrArg₂ (fun tp ra => Host.Outcome.next { s with tp := tp, ra := ra }) (popQueue_eq queue) (insertOkay_eq s.ra)

/-! ## An insert fault (R70, R142, R143, R166) -/

/-- An insert fault is counted; a fault of an INSERT FAULT report suppresses the next, and any other raises one unless suppressed. -/
theorem insertFault_eq (ra : ReportArbiter) (e : QueueEntry) : ra.insertFault e =
    let counted : ReportArbiter := { ra with
      latestAddr := some e.addr
      latestKind := some e.kind.insertKind
      tally := min 65535 (ra.tally + (1 + if e.isInsertFault then (e.words.getD 3 0).toNat / 65536 else 0)) }
    if e.isInsertFault then { counted with suppressed := true }
    else if ra.suppressed then counted
    else counted.raise .insertFault { place := none, a := e.addr, b := e.kind.insertKind.code } := by
  have count : e.faultCount = (e.words.getD 3 0).toNat / 65536 := by
    have lt := (e.words.getD 3 0).isLt
    rw [QueueEntry.faultCount, field_toNat]
    omega
  unfold ReportArbiter.insertFault
  rw [count]
  rfl

/-- The effect of a faulted record by its kind: the Alignment Table and the Report Arbiter alone (R70, R142, R166). -/
theorem dropRecord_frame (s : State) (e : QueueEntry) : s.dropRecord e =
    { s with table := (s.dropRecord e).table, ra := (s.dropRecord e).ra } := by
  unfold State.dropRecord
  cases e.kind with
  | result c =>
    dsimp only
    split <;> rfl
  | report n | outcome => rfl

theorem dropRecord_ra (s : State) (e : QueueEntry) (marked : ∀ n, e.kind = .report n → s.ra.marks[n] = true) :
    (s.dropRecord e).ra = match e.kind with
      | .report n => { s.ra with
          marks := s.ra.marks.set n false, occupancy := s.ra.occupancy - 1, attn := decide (0 < s.ra.occupancy - 1) }
      | .result _ => s.ra
      | .outcome => s.ra := by
  unfold State.dropRecord
  cases kind : e.kind with
  | result c =>
    dsimp only
    split <;> rfl
  | report n => exact ReportArbiter.free_set (marked n kind)
  | outcome => rfl

theorem laterResult_iff (q : List QueueEntry) (c : Fin 512) : laterResult q c = true ↔ ∃ x ∈ q, x.kind = .result c := by
  simp only [laterResult, List.any_eq_true, beq_iff_eq]

theorem dropRecord_cell (s : State) (e : QueueEntry) (x : Fin 512) : (s.dropRecord e).table.cell x =
    if e.kind = .result x ∧ ∀ y ∈ s.tp.queue, y.kind ≠ .result x then { s.table.cell x with unread := false }
    else s.table.cell x := by
  unfold State.dropRecord
  cases kind : e.kind with
  | result c =>
    dsimp only
    by_cases later : laterResult s.tp.queue c = true
    · rw [if_pos later, if_neg]
      rintro ⟨same, none_later⟩
      cases same
      obtain ⟨y, hy, hk⟩ := (laterResult_iff _ _).mp later
      exact none_later y hy hk
    · rw [if_neg later]
      refine (AlignmentTable.setUnread_cell s.table c x false).trans ?_
      by_cases same : x = c
      · subst same
        rw [if_pos rfl, if_pos ⟨rfl, fun y hy hk => later ((laterResult_iff _ _).mpr ⟨y, hy, hk⟩)⟩]
      · rw [if_neg same, if_neg fun hc => same (RecordKind.result.inj hc.1).symm]
  | report n | outcome => exact (if_neg fun hc => RecordKind.noConfusion hc.1).symm

/-- A report record is an INSERT FAULT report by its kind field (section 11.4). -/
theorem isInsertFault_iff (e : QueueEntry) : e.isInsertFault = true ↔
    (∃ n, e.kind = .report n) ∧ (e.words.getD 0 0).extractLsb' 0 8 = 2 := by
  unfold QueueEntry.isInsertFault
  cases e.kind with
  | report n => exact beq_iff_eq.trans (and_iff_right ⟨n, rfl⟩).symm
  | result c | outcome => exact iff_of_false Bool.false_ne_true fun ⟨⟨n, hn⟩, _⟩ => RecordKind.noConfusion hn

/-- Settles O35: the record leaves the queue, its marks are undone, and the fault is counted. -/
theorem insertErrorDropsTheRecord : Obligations.InsertErrorDropsTheRecord := by
  refine ⟨rfl, fun s e rest high => ⟨fun h => ?_, fun queue inFlight marked => ?_⟩⟩
  · rw [exec_insertWriteError high, State.insertError, flying_none h]
  · have error := exec_insertWriteError high
    rw [State.insertError, (flying_eq_some s.tp e).mpr ⟨inFlight, rest, queue⟩] at error
    dsimp only at error
    have popped := popQueue_eq queue
    have frame := dropRecord_frame (s.withTp (popQueue s.tp)) e
    have ra := dropRecord_ra (s.withTp (popQueue s.tp)) e marked
    have cell := dropRecord_cell (s.withTp (popQueue s.tp)) e
    generalize (s.withTp (popQueue s.tp)).dropRecord e = dropped at *
    have tp : dropped.tp = popQueue s.tp := congrArg State.tp frame
    have kept : { dropped with tp := s.tp, ra := s.ra, table := s.table } = s := by
      rw [frame]
      rfl
    refine ⟨_, error, kept, ?_, ?_, ?_, ?_, fun c => ?_, ?_, isInsertFault_iff e⟩
    · exact (congrArg TransferPath.queue tp).trans (congrArg TransferPath.queue popped)
    · exact (congrArg TransferPath.inFlight tp).trans (congrArg TransferPath.inFlight popped)
    · change { dropped.tp with queue := s.tp.queue, inFlight := true, upstream := s.tp.upstream } = s.tp
      rw [tp, popped, ← inFlight]
    · exact (congrArg TransferPath.upstream tp).trans ((congrArg TransferPath.upstream popped).trans rfl)
    · refine (cell c).trans ?_
      rw [show (s.withTp (popQueue s.tp)).tp.queue = rest from congrArg TransferPath.queue popped]
      rfl
    · refine (insertFault_eq dropped.ra e).trans ?_
      rw [ra]
      cases kind : e.kind <;> rfl

end Sys2Proof.Proofs
end

section
/-! The records that enter the insertion queue: a report grant, an outcome record and a result record, with their words field by
field (chapters 8, 9 and 11). -/

namespace Sys2Proof.Proofs

open Sys2Proof.Machine

/-! ## Words placed field by field (R168) -/

theorem place_word (v : Nat) : place 0 32 v = BitVec.ofNat 32 v := by
  apply BitVec.eq_of_toNat_eq
  simp [place]

/-! ## A report grant (R138, R139) -/

/-- A read already sent loses its notice for the slot of a report record that enters (R163). -/
theorem spoilNotice_report (n : Fin 64) (x : Outstanding) : spoilNotice (.report n) x = match x with
    | .write a => .write a
    | .read r ofResult cells slots => .read r ofResult cells (slots.filter fun m => m ≠ n) := by
  cases x with
  | write a => rfl
  | read r ofResult cells slots => exact congrArg (Outstanding.read r ofResult cells) (List.filter_congr fun m _ => by
      rw [Bool.eq_iff_iff, bne_iff_ne, decide_eq_true_eq])

theorem spoilNotice_result (c : Fin 512) (x : Outstanding) : spoilNotice (.result c) x = match x with
    | .write a => .write a
    | .read r ofResult cells slots => .read r ofResult (cells.filter fun m => m ≠ c) slots := by
  cases x with
  | write a => rfl
  | read r ofResult cells slots =>
    exact congrArg (Outstanding.read r ofResult · slots) (List.filter_congr fun m _ => by
      rw [Bool.eq_iff_iff, bne_iff_ne, decide_eq_true_eq])

/-- The detail a report is built with, by its kind (R139, R143). -/
theorem grantDetail_eq (s : State) (k : ReportKind) (d : ReportDetail) : s.grantDetail k d =
    { place := d.place
      a := if k = .frameFault then s.fr.torn else d.a
      b := if k = .frameFault then s.fr.badWedge else if k = .insertFault then d.b + 65536 * s.ra.tally else d.b } := by
  have count : faultDetail d.b s.ra.tally = d.b + 65536 * s.ra.tally := by
    rw [faultDetail, Nat.mul_comm]
  cases k with
  | insertFault => exact congrArg (ReportDetail.mk d.place d.a) count
  | _ => rfl

/-- The counts that a grant restarts, by its kind (R8, R143). -/
theorem restartCounts_eq (s : State) (k : ReportKind) : s.restartCounts k =
    { s with
      fr := if k = .frameFault then { s.fr with torn := 0, badWedge := 0 } else s.fr
      ra := { s.ra with tally := if k = .insertFault then 0 else s.ra.tally } } := by
  cases k <;> rfl

/-- What a grant leaves, with the reads already sent as they then are (R139, R163). -/
def grantLeaving (b : Nat) (s : State) (k : ReportKind) (e : PendingEntry) (sent : List Outstanding) : State :=
  { s with
    tp := { s.tp with
      queue := s.tp.queue ++
        [{ addr := b + 0x800 + 32 * s.ra.writeIndex.val
           words := reportWords k e.repeats
             { place := e.detail.place
               a := if k = .frameFault then s.fr.torn else e.detail.a
               b := if k = .frameFault then s.fr.badWedge
                 else if k = .insertFault then e.detail.b + 65536 * s.ra.tally else e.detail.b }
           kind := .report s.ra.writeIndex }]
      outstanding := sent }
    fr := if k = .frameFault then { s.fr with torn := 0, badWedge := 0 } else s.fr
    ra := { s.ra with
      pend := s.ra.pend.set k.index none
      marks := s.ra.marks.set s.ra.writeIndex true
      occupancy := s.ra.occupancy + 1
      attn := true
      writeIndex := s.ra.writeIndex + 1
      tally := if k = .insertFault then 0 else s.ra.tally } }

/-- A grant in full (R139). -/
theorem grant_eq {b : Nat} {s : State} (base : s.tp.controlBase = some b) (k : ReportKind) (e : PendingEntry) :
    s.grant k e = grantLeaving b s k e (s.tp.outstanding.map (spoilNotice (.report s.ra.writeIndex))) := by
  have attn : decide (0 < s.ra.occupancy + 1) = true := decide_eq_true (Nat.succ_pos _)
  have addr : slotAddress s.tp.controlBase s.ra.writeIndex = b + 0x800 + 32 * s.ra.writeIndex.val := by
    rw [slotAddress, base]
    rfl
  simp only [State.grant, grantDetail_eq, restartCounts_eq, addr, State.withTp, State.withRa, ReportArbiter.setEntry,
    ReportArbiter.occupy, ReportArbiter.setOccupancy, attn]
  rfl

/-- No kind is grantable, and none is granted. -/
theorem nextGrant_none {ra : ReportArbiter} (h : ∀ k, ra.grantable k = false) : ra.nextGrant = none :=
  List.find?_eq_none.mpr fun k _ => by rw [h k]; exact Bool.false_ne_true

theorem grantable_iff (ra : ReportArbiter) (k : ReportKind) : ra.grantable k = true ↔
    ra.entry k ≠ none ∧ (k.urgent = true ∨ ra.occupancy < 56) := by
  simp only [ReportArbiter.grantable, Bool.and_eq_true, Bool.or_eq_true, Option.isSome_iff_ne_none, decide_eq_true_eq,
    Config.routineLimit]

/-- A grant is of a grantable kind, the first of them, or changes nothing. -/
theorem tryGrant_cases (s : State) : s.tryGrant = s ∨
    ∃ k e, s.ra.grantable k = true ∧ s.ra.entry k = some e ∧ s.tryGrant = s.grant k e := by
  unfold State.tryGrant
  split
  · split
    · next k hk =>
      split
      · next e he => exact .inr ⟨k, e, (ReportArbiter.nextGrant_some hk).1, he, rfl⟩
      · exact .inl rfl
    · exact .inl rfl
  · exact .inl rfl

/-- The first grantable kind is granted when the conditions hold. -/
theorem tryGrant_eq {s : State} {k : ReportKind} {e : PendingEntry} (opened : s.grantOpen = true) (next : s.ra.nextGrant = some k)
    (entry : s.ra.entry k = some e) : s.tryGrant = s.grant k e := by
  simp only [State.tryGrant, opened, if_true, next, entry]

/-- The words of a report record, each field at its bits (section 11.4). -/
theorem reportWords_fields (k : ReportKind) (repeats : Nat) (d : ReportDetail) (hr : repeats ≤ 255) :
    ∃ w0 w1 : Word, reportWords k repeats d = [w0, w1, BitVec.ofNat 32 d.a, BitVec.ofNat 32 d.b, 0, 0, 0, 0] ∧
      ((w0.extractLsb' 0 8).toNat = k.code ∧ w0.getLsbD 8 = k.urgent ∧ w0.extractLsb' 9 7 = 0 ∧
        (w0.extractLsb' 16 8).toNat = repeats ∧ w0.extractLsb' 24 8 = 0) ∧
      (d.place = none → w1 = 0) ∧
      ∀ h z, d.place = some (h, z) → (w1.extractLsb' 0 8).toNat = h.val ∧ (w1.extractLsb' 8 8).toNat = z.val ∧
        w1.getLsbD 16 = true ∧ w1.extractLsb' 17 15 = 0 := by
  have code : k.code < 256 := by cases k <;> decide
  have words (p : Option (Fin 16 × Fin 32)) : reportWords k repeats { d with place := p } =
      [place 0 8 k.code ||| placeFlag 8 k.urgent ||| place 16 8 repeats,
        match p with
        | some (h, z) => place 0 8 h.val ||| place 8 8 z.val ||| placeFlag 16 true
        | none => 0, BitVec.ofNat 32 d.a, BitVec.ofNat 32 d.b, 0, 0, 0, 0] := by
    rw [← place_word, ← place_word]
    rfl
  refine ⟨_, _, words d.place, ⟨?_, ?_, ?_, ?_, ?_⟩, fun absent => ?_, fun h z present => ?_⟩
  · simp (disch := omega) only [extract_or, extract_place, extract_place_beside, extract_placeFlag_beside]
    simp [Nat.mod_eq_of_lt code]
  · simp only [BitVec.getLsbD_or, getLsbD_place, getLsbD_placeFlag]
    simp
  · simp (disch := omega) only [extract_or, extract_place_beside, extract_placeFlag_beside]
    rfl
  · simp (disch := omega) only [extract_or, extract_place, extract_place_beside, extract_placeFlag_beside]
    simp [Nat.mod_eq_of_lt (Nat.lt_succ_of_le hr)]
  · simp (disch := omega) only [extract_or, extract_place_beside, extract_placeFlag_beside]
    rfl
  · rw [absent]
  · have hh : h.val < 256 := by omega
    have hz : z.val < 256 := by omega
    rw [present]
    dsimp only
    refine ⟨?_, ?_, ?_, ?_⟩
    · simp (disch := omega) only [extract_or, extract_place, extract_place_beside, extract_placeFlag_beside]
      simp [Nat.mod_eq_of_lt hh]
    · simp (disch := omega) only [extract_or, extract_place, extract_place_beside, extract_placeFlag_beside]
      simp [Nat.mod_eq_of_lt hz]
    · simp only [BitVec.getLsbD_or, getLsbD_place, getLsbD_placeFlag]
      simp
    · simp (disch := omega) only [extract_or, extract_place_beside, extract_placeFlag_beside]
      rfl

/-- Settles O37: no grant, the ROUTINE entries held back, and the grant of the first grantable kind. -/
theorem reportGrantFillsTheSlotAtTheWriteIndex : Obligations.ReportGrantFillsTheSlotAtTheWriteIndex := by
  refine ⟨fun b s running => ?_, ⟨by decide, by decide⟩, reportWords_fields⟩
  obtain ⟨high, base, -⟩ := running
  have granted := exec_reportGrant high
  refine ⟨fun closed => ?_, fun none_left => ?_, ⟨_, granted, fun occupied k routine => ?_⟩,
    fun k e free room outcome result entry level first => ?_⟩
  · have : ¬ s.grantOpen = true := by
      rw [State.grantOpen_iff]
      rintro ⟨free, room, outcome, result⟩
      rcases closed with h | h | h | h
      · rw [free] at h
        cases h
      · omega
      · exact h outcome
      · exact h result
    rw [granted, State.tryGrant, if_neg this]
  · have next : s.ra.nextGrant = none := nextGrant_none fun k => by
      rw [← Bool.not_eq_true, grantable_iff]
      rintro ⟨pending, urgent | low⟩
      · exact (none_left k).elim pending fun h => Bool.false_ne_true (h.1.symm.trans urgent)
      · exact (none_left k).elim pending fun h => absurd low (not_lt.mpr h.2)
    rw [granted, State.tryGrant, next]
    split <;> rfl
  · obtain same | ⟨j, e, grantable, -, eq⟩ := tryGrant_cases s
    · rw [same]
    · have urgent := ((grantable_iff _ _).mp grantable).2.resolve_right (not_lt.mpr occupied)
      have other : k ≠ j := fun hc => Bool.false_ne_true (routine.symm.trans (hc ▸ urgent))
      rw [eq, grant_eq base]
      exact (ReportArbiter.setEntry_entry s.ra k j none).trans (if_neg other)
  · have opened := (State.grantOpen_iff s).mpr ⟨free, room, outcome, result⟩
    have grantable := (grantable_iff s.ra k).mpr ⟨by rw [entry]; exact Option.some_ne_none e, level⟩
    have next := ReportArbiter.nextGrant_eq grantable fun j hj => by
      obtain ⟨pending, levels⟩ := (grantable_iff s.ra j).mp hj
      exact first j pending levels
    rw [granted, tryGrant_eq opened next entry, grant_eq base]
    have notices : s.tp.outstanding.map (spoilNotice (.report s.ra.writeIndex)) = _ :=
      List.map_congr_left fun x _ => spoilNotice_report s.ra.writeIndex x
    exact congrArg (fun o => Host.Outcome.next (grantLeaving b s k e o)) notices

/-! ## A stalled write goes on (R165) -/

section

variable {s : State} {p : WriteProgress} {rest : List Upstream}

theorem endStall_empty (h : s.tp.upstream = []) (x : Stall) : s.endStall x = s := by
  rw [State.endStall, h]

/-- A front write that is not stalled for this record stays where it is. -/
theorem endStall_other {x : Stall} (h : ∀ p rest, s.tp.upstream = .write p :: rest → p.stall ≠ some x) : s.endStall x = s := by
  unfold State.endStall
  split
  · next p rest front => exact if_neg (h p rest front)
  · rfl
  · rfl

theorem endStall_front {x : Stall} (front : s.tp.upstream = .write p :: rest) (stall : p.stall = some x) : s.endStall x =
    State.serveFront { s with tp := { s.tp with upstream := .write { p with stall := none } :: rest } } := by
  rw [State.endStall, front]
  exact if_pos stall

/-- A front write whose words are all taken, which no record holds, passes downstream. -/
theorem serveFront_done (front : s.tp.upstream = .write p :: rest) (stall : p.stall = none) (todo : p.todo = [])
    (hold : p.hold = 0) : s.serveFront = { s with
      tp := { s.tp with upstream := rest, outstanding := s.tp.outstanding ++ [.write p.addr] }
      ports := { s.ports with down := s.ports.down ++ [.write p.addr p.taken] } } := by
  have resumed : p.resumed = p := by rw [WriteProgress.resumed, todo]
  rw [State.serveFront, front]
  dsimp only
  rw [stall]
  dsimp only
  rw [advanceWrite, resumed, todo, takeWords_nil]
  simp only [settleWrite, hold]
  rfl

end

/-- The same write once the record it was stalled for has entered. -/
theorem endStall_passes {s : State} {p : WriteProgress} {rest : List Upstream} {x : Stall} (front : s.tp.upstream = .write p :: rest)
    (stall : p.stall = some x) (todo : p.todo = []) (hold : p.hold = 0) : s.endStall x = { s with
      tp := { s.tp with upstream := rest, outstanding := s.tp.outstanding ++ [.write p.addr] }
      ports := { s.ports with down := s.ports.down ++ [.write p.addr p.taken] } } := by
  rw [endStall_front front stall]
  exact serveFront_done (p := { p with stall := none }) rfl rfl todo hold

theorem exec_heldTransactionRelease {s : State} (high : s.resetLow = false) : exec .heldTransactionRelease s = .next s.serveFront :=
  congrArg Host.Outcome.next (whenRunning_high s _ high)

/-- A write whose stall ends goes on as one released at the front of the port. -/
theorem exec_heldTransactionRelease_endStall {s : State} {p : WriteProgress} {rest : List Upstream} {x : Stall}
    (high : s.resetLow = false) (front : s.tp.upstream = .write p :: rest) (stall : p.stall = some x) :
    exec .heldTransactionRelease { s with tp := { s.tp with upstream := .write { p with stall := none } :: rest } } =
      .next (s.endStall x) := by
  rw [endStall_front front stall]
  exact exec_heldTransactionRelease
    (s := { s with tp := { s.tp with upstream := .write { p with stall := none } :: rest } }) high

/-! ## The entry of an outcome record (R151, section 11.3) -/

theorem enterOutcome_eq {b : Nat} {s : State} (base : s.tp.controlBase = some b) (r : OutcomeRecord) : s.enterOutcome r = { s with
    tp := { s.tp with queue := s.tp.queue ++ [{ addr := b + 0x20, words := outcomeWords r, kind := .outcome }] }
    dd := { s.dd with holder := none } } := by
  have addr : s.tp.controlBase.getD 0 + 0x20 = b + 0x20 := by rw [base]; rfl
  simp only [State.enterOutcome, enqueue, addr, spoilNotice_outcome]
  rfl

theorem exec_outcomeRecordEntry {s : State} (high : s.resetLow = false) : exec .outcomeRecordEntry s = .next
    (match s.dd.holder with
      | some r => if 0 < freeEntries s.tp then (s.enterOutcome r).endStall .outcome else s
      | none => s) :=
  congrArg Host.Outcome.next (whenRunning_high s _ high)

/-- The words of an outcome record, each field at its bits. -/
theorem outcomeWords_fields (r : OutcomeRecord) (count : r.count ≤ 65535) :
    ∃ w0 w1 : Word, outcomeWords r = [w0, w1, r.detail, 0, 0, 0, 0, 0] ∧
      (w0.extractLsb' 0 8 = r.kind ∧ (w0.extractLsb' 8 8).toNat = r.code.code ∧ w0.extractLsb' 16 16 = 0) ∧
      (w1.extractLsb' 0 16).toNat = r.count ∧ w1.extractLsb' 16 16 = 0 := by
  have code : r.code.code < 256 := by cases r.code <;> decide
  refine ⟨_, _, rfl, ⟨?_, ?_, ?_⟩, ?_, extract_place_beside _ (by omega)⟩
  · simp (disch := omega) only [extract_or, extract_place, extract_place_beside]
    simp
  · simp (disch := omega) only [extract_or, extract_place, extract_place_beside]
    simp [Nat.mod_eq_of_lt code]
  · simp (disch := omega) only [extract_or, extract_place_beside]
    rfl
  · rw [extract_place _ (by omega), BitVec.toNat_ofNat]
    exact Nat.mod_eq_of_lt (Nat.lt_succ_of_le count)

/-- Settles O38: the waiting outcome record enters when it can, and the go word held for it goes on. -/
theorem outcomeRecordEntersAndReleasesTheGoWord : Obligations.OutcomeRecordEntersAndReleasesTheGoWord := by
  refine ⟨fun b s r running => ?_, rfl, outcomeWords_fields⟩
  obtain ⟨high, base, -⟩ := running
  have entry := exec_outcomeRecordEntry high
  refine ⟨?_, fun holder room => ?_⟩
  · rintro (empty | full)
    · rw [entry, empty]
    · have : ¬ 0 < freeEntries s.tp := by
        rw [freeEntries_pos]
        omega
      rw [entry]
      cases s.dd.holder with
      | none => rfl
      | some x => exact congrArg Host.Outcome.next (if_neg this)
  rw [holder] at entry
  dsimp only at entry
  rw [if_pos ((freeEntries_pos s.tp).mpr room)] at entry
  have entered := enterOutcome_eq base r
  have port : (s.enterOutcome r).tp.upstream = s.tp.upstream := rfl
  refine ⟨fun upstream => ?_, fun p rest front stall todo hold => ?_, fun p rest front stall => ?_⟩
  · rw [entry, endStall_empty (port.trans upstream), entered]
  · rw [entry, endStall_passes (port.trans front) stall todo hold, entered]
  · rw [entry, ← exec_heldTransactionRelease_endStall (s := s.enterOutcome r) high (port.trans front) stall, entered]

/-! ## The entry of a result record (R108, section 11.5) -/

theorem exec_resultRecordEntry {s : State} (high : s.resetLow = false) : exec .resultRecordEntry s = .next
    (match s.sc.holder with
      | some r => if s.resultCanEnter then (s.enterResult r).endStall .result else s
      | none => s) :=
  congrArg Host.Outcome.next (whenRunning_high s _ high)

theorem resultCanEnter_iff (s : State) : s.resultCanEnter = true ↔ s.tp.queue.length < 16 ∧ s.dd.holder = none := by
  simp only [State.resultCanEnter, Bool.and_eq_true, decide_eq_true_eq, freeEntries_pos, Option.isNone_iff_eq_none]

/-- A signed field of 16 bits reads back the value it holds. -/
theorem toInt_signed {v : Int} (low : -32768 ≤ v) (high : v ≤ 32767) : (BitVec.ofInt 16 v).toInt = v := by
  rw [BitVec.toInt_ofInt, Int.bmod_def]
  norm_num
  split <;> omega

/-- The word of the figure: its value in the lower half, and the present flags (R169, section 11.5). -/
theorem resultValue_fields (value : Option Int) (extremes : Option (Int × Int)) :
    let w := (match value with
      | some v => placeInt 0 16 v ||| placeFlag 31 true
      | none => 0) ||| (match extremes with
      | some _ => placeFlag 30 true
      | none => 0)
    w.getLsbD 31 = value.isSome ∧ w.getLsbD 30 = extremes.isSome ∧ w.extractLsb' 16 14 = 0 ∧
      (value = none → w.extractLsb' 0 16 = 0) ∧
      ∀ v, value = some v → -32768 ≤ v → v ≤ 32767 → (w.extractLsb' 0 16).toInt = v := by
  intro w
  refine ⟨?_, ?_, ?_, fun absent => ?_, fun v present low high => ?_⟩
  · cases value <;> cases extremes <;> simp only [w, BitVec.getLsbD_or, getLsbD_placeFlag, getLsbD_placeInt] <;> simp
  · cases value <;> cases extremes <;> simp only [w, BitVec.getLsbD_or, getLsbD_placeFlag, getLsbD_placeInt] <;> simp
  · cases value <;> cases extremes <;> simp (disch := omega) [w, extract_or, extract_placeInt_beside, extract_placeFlag_beside]
  · subst absent
    cases extremes <;> simp (disch := omega) [w, extract_placeFlag_beside]
  · subst present
    rw [← toInt_signed low high]
    cases extremes <;> simp (disch := omega) [w, extract_or, extract_placeInt, extract_placeFlag_beside]

theorem historyBits_fields (h : History) : (historyBits h).getLsbD 0 = h.acquiring ∧ (historyBits h).getLsbD 1 = h.settling ∧
    (historyBits h).getLsbD 2 = h.following ∧ (historyBits h).getLsbD 3 = h.slipped ∧ (historyBits h).extractLsb' 4 28 = 0 := by
  refine ⟨?_, ?_, ?_, ?_, ?_⟩
  case refine_5 =>
    simp (disch := omega) only [historyBits, extract_or, extract_placeFlag_beside]
    rfl
  all_goals
    simp only [historyBits, BitVec.getLsbD_or, getLsbD_placeFlag]
    simp

/-- The words of a result record, each field at its bits. -/
theorem resultWords_fields (r : ResultRecord) (overrun : Bool) (count : r.n ≤ 4096) (spread : r.spread ≤ 65535)
    (missed : r.missed ≤ 65535) (slips : r.slips ≤ 65535) (passes : r.passNumber ≤ 65535) :
    ∃ w0 w1 w2 w3 w4 w5 w7 : Word, resultWords r overrun = [w0, w1, w2, w3, w4, w5, 0, w7] ∧
      ((w0.extractLsb' 0 8).toNat = r.head.val ∧ (w0.extractLsb' 8 8).toNat = r.zone.val ∧
        (w0.extractLsb' 16 2).toNat = r.kind.code ∧ w0.extractLsb' 18 6 = 0 ∧
        (w0.extractLsb' 24 3).toNat = r.outcome.code ∧ w0.extractLsb' 27 5 = 0) ∧
      ((w1.extractLsb' 0 13).toNat = r.n ∧ w1.extractLsb' 13 19 = 0) ∧
      (w2.getLsbD 31 = r.value.isSome ∧ w2.getLsbD 30 = r.extremes.isSome ∧ w2.extractLsb' 16 14 = 0 ∧
        (r.value = none → w2.extractLsb' 0 16 = 0) ∧
        ∀ v, r.value = some v → -32768 ≤ v → v ≤ 32767 → (w2.extractLsb' 0 16).toInt = v) ∧
      ((r.kind = .centre → (w3.extractLsb' 0 16).toNat = r.spread ∧ w3.extractLsb' 16 16 = 0) ∧
        (r.kind = .jog → r.extremes = none → w3 = 0) ∧
        ∀ lo hi, r.kind = .jog → r.extremes = some (lo, hi) → -32768 ≤ lo → lo ≤ 32767 → -32768 ≤ hi → hi ≤ 32767 →
          (w3.extractLsb' 0 16).toInt = lo ∧ (w3.extractLsb' 16 16).toInt = hi) ∧
      ((w4.extractLsb' 0 16).toNat = r.missed ∧ (w4.extractLsb' 16 16).toNat = r.slips) ∧
      (w5.getLsbD 0 = r.history.acquiring ∧ w5.getLsbD 1 = r.history.settling ∧ w5.getLsbD 2 = r.history.following ∧
        w5.getLsbD 3 = r.history.slipped ∧ w5.extractLsb' 4 28 = 0) ∧
      (w7.extractLsb' 0 16).toNat = r.passNumber ∧ w7.extractLsb' 16 15 = 0 ∧ w7.getLsbD 31 = overrun := by
  have head : r.head.val < 256 := by omega
  have zone : r.zone.val < 256 := by omega
  have kind : r.kind.code < 4 := by cases r.kind <;> decide
  have outcome : r.outcome.code < 8 := by cases r.outcome <;> decide
  refine ⟨_, _, _, _, _, _, _, rfl, ⟨?_, ?_, ?_, ?_, ?_, ?_⟩, ⟨?_, extract_place_beside _ (by omega)⟩, resultValue_fields r.value r.extremes,
    ⟨fun centre => ?_, fun jog absent => ?_, fun lo hi jog present lo0 lo1 hi0 hi1 => ?_⟩, ⟨?_, ?_⟩, historyBits_fields r.history,
    ?_, ?_, ?_⟩
  · simp (disch := omega) only [extract_or, extract_place, extract_place_beside]
    simp [Nat.mod_eq_of_lt head]
  · simp (disch := omega) only [extract_or, extract_place, extract_place_beside]
    simp [Nat.mod_eq_of_lt zone]
  · simp (disch := omega) only [extract_or, extract_place, extract_place_beside]
    simp [Nat.mod_eq_of_lt kind]
  · simp (disch := omega) only [extract_or, extract_place_beside]
    rfl
  · simp (disch := omega) only [extract_or, extract_place, extract_place_beside]
    simp [Nat.mod_eq_of_lt outcome]
  · simp (disch := omega) only [extract_or, extract_place_beside]
    rfl
  · rw [extract_place _ (by omega), BitVec.toNat_ofNat]
    exact Nat.mod_eq_of_lt (by omega)
  · rw [centre]
    exact ⟨by rw [extract_place _ (by omega), BitVec.toNat_ofNat]; exact Nat.mod_eq_of_lt (by omega), extract_place_beside _ (by omega)⟩
  · rw [jog, absent]
  · rw [jog, present]
    dsimp only
    constructor
    · simp (disch := omega) only [extract_or, extract_placeInt, extract_placeInt_beside]
      rw [BitVec.ofNat_eq_ofNat, BitVec.or_zero, toInt_signed lo0 lo1]
    · simp (disch := omega) only [extract_or, extract_placeInt, extract_placeInt_beside]
      rw [BitVec.ofNat_eq_ofNat, BitVec.zero_or, toInt_signed hi0 hi1]
  · simp (disch := omega) only [extract_or, extract_place, extract_place_beside]
    simp [Nat.mod_eq_of_lt (Nat.lt_succ_of_le missed)]
  · simp (disch := omega) only [extract_or, extract_place, extract_place_beside]
    simp [Nat.mod_eq_of_lt (Nat.lt_succ_of_le slips)]
  · simp (disch := omega) only [extract_or, extract_place, extract_placeFlag_beside]
    simp [Nat.mod_eq_of_lt (Nat.lt_succ_of_le passes)]
  · simp (disch := omega) only [extract_or, extract_place_beside, extract_placeFlag_beside]
    rfl
  · simp only [BitVec.getLsbD_or, getLsbD_place, getLsbD_placeFlag]
    simp

/-- Settles O39: the waiting result record enters when it can, and the word 7 held for it goes on. -/
theorem resultRecordEntersWithItsOverrunFlag : Obligations.ResultRecordEntersWithItsOverrunFlag := by
  refine ⟨fun s r high => ?_, ⟨rfl, rfl⟩, resultWords_fields⟩
  have entry := exec_resultRecordEntry high
  refine ⟨?_, fun holder room outcome => ?_⟩
  · rintro (empty | waits)
    · rw [entry, empty]
    · have : ¬ s.resultCanEnter = true := by
        rw [resultCanEnter_iff]
        rintro ⟨room, outcome⟩
        exact waits.elim (not_le.mpr room) fun h => h outcome
      rw [entry]
      cases s.sc.holder with
      | none => rfl
      | some x => exact congrArg Host.Outcome.next (if_neg this)
  rw [holder] at entry
  dsimp only at entry
  rw [if_pos ((resultCanEnter_iff s).mpr ⟨room, outcome⟩)] at entry
  have entered := enterResult_eq s r
  have upstream : (s.enterResult r).tp.upstream = s.tp.upstream := congrArg (fun t => t.tp.upstream) entered
  have highAfter : (s.enterResult r).resetLow = false := (congrArg State.resetLow entered).trans high
  refine ⟨s.enterResult r, ?_, congrArg State.sc entered, ?_, fun x => ?_, congrArg State.ra entered, fun other => ?_,
    fun p rest front stall => ⟨?_, fun todo hold => ?_⟩⟩
  · rw [entered]
    rfl
  · have notices : s.tp.outstanding.map (spoilNotice (.result (cellIndex r.head r.zone))) = _ :=
      List.map_congr_left fun x _ => spoilNotice_result (cellIndex r.head r.zone) x
    refine (congrArg State.tp entered).trans ?_
    exact congrArg (fun o : List Outstanding => ({ s.tp with
      queue := s.tp.queue ++ [{ addr := r.addr
                                words := resultWords r (s.table.cell (cellIndex r.head r.zone)).unread
                                kind := .result (cellIndex r.head r.zone) }]
      outstanding := o } : TransferPath)) notices
  · rw [entered]
    refine (AlignmentTable.setUnread_cell s.table _ x true).trans ?_
    split
    · next same => rw [same]
    · rfl
  · rw [entry, endStall_other (by rwa [upstream])]
  · rw [entry, ← exec_heldTransactionRelease_endStall highAfter (upstream.trans front) stall]
  · have ports : (s.enterResult r).ports = s.ports := by
      rw [entered]
      rfl
    rw [entry, endStall_passes (upstream.trans front) stall todo hold, ports]

end Sys2Proof.Proofs
end

section
/-! Figures: the grade and the zone of a frame (sections 1.3, 1.4), the encoding of a committed value (section 7.4) and the
substitution of returned data (section 7.5). -/

namespace Sys2Proof.Proofs

open Sys2Proof.Machine

/-! ## The zone of a track (R12) -/

/-- The search for a zone ends in the last entry of the list whose first track is not above the track, or keeps what it had when there
is none. -/
theorem zoneFrom_spec (track : Nat) (zones : List Nat) (z best : Nat) :
    (zoneFrom track zones z best = best ∧ ∀ i, i < zones.length → track < zones.getD i 0) ∨
    ∃ k, k < zones.length ∧ zoneFrom track zones z best = z + k ∧ zones.getD k 0 ≤ track ∧
      ∀ i, k < i → i < zones.length → track < zones.getD i 0 := by
  induction zones generalizing z best with
  | nil => exact Or.inl ⟨rfl, fun i hi => absurd hi (Nat.not_lt_zero i)⟩
  | cons first zones ih =>
    rw [zoneFrom]
    rcases ih (z + 1) (if first ≤ track then z else best) with ⟨found, above⟩ | ⟨k, hk, found, holds, above⟩
    · by_cases below : first ≤ track
      · refine Or.inr ⟨0, Nat.succ_pos _, by rw [found, if_pos below]; rfl, below, fun i hi hlen => ?_⟩
        obtain ⟨i, rfl⟩ := Nat.exists_eq_succ_of_ne_zero (Nat.ne_of_gt hi)
        exact above i (Nat.lt_of_succ_lt_succ hlen)
      · refine Or.inl ⟨by rw [found, if_neg below], fun i hlen => ?_⟩
        cases i with
        | zero => exact Nat.lt_of_not_le below
        | succ i => exact above i (Nat.lt_of_succ_lt_succ hlen)
    · refine Or.inr ⟨k + 1, Nat.succ_lt_succ hk, by omega, holds, fun i hi hlen => ?_⟩
      obtain ⟨i, rfl⟩ := Nat.exists_eq_succ_of_ne_zero (Nat.ne_of_gt (Nat.zero_lt_of_lt hi))
      exact above i (by omega) (Nat.lt_of_succ_lt_succ hlen)

/-- The zone of a valid track, in a list whose zone 0 starts at track 0. -/
theorem zoneOf_spec {zones : List Nat} (track : Nat) (some_zone : 1 ≤ zones.length) (few : zones.length ≤ 32)
    (zero : zones.getD 0 0 = 0) : (zoneOf zones track).val < zones.length ∧ zones.getD (zoneOf zones track).val 0 ≤ track ∧
      ∀ z, (zoneOf zones track).val < z → z < zones.length → track < zones.getD z 0 := by
  rcases zoneFrom_spec track zones 0 0 with ⟨-, above⟩ | ⟨k, hk, found, holds, above⟩
  · have := above 0 some_zone
    omega
  · have val : (zoneOf zones track).val = k := by
      rw [zoneOf, found, Fin.val_ofNat]
      omega
    rw [val]
    exact ⟨hk, holds, above⟩

/-! ## The grade of a frame (R10) -/

theorem isVoid_iff {f : FrameRecord} {wpr : Nat} {x : BurstSums} : isVoid f wpr x = true ↔
    f.markFound = false ∨ f.trackValid = false ∨ wpr ≤ f.wedge ∨ (x.sn = 0 ∧ x.sq = 0) := by
  simp only [isVoid, Bool.or_eq_true, Bool.not_eq_true', decide_eq_true_eq, Bool.and_eq_true, or_assoc]

/-- An offset of +512 comes from the QUADRATURE region alone. -/
theorem quadrature_of_rawOffset {x : BurstSums} (bound : x.n.natAbs ≤ x.sn) (at512 : rawOffset x = 512) :
    chooseRegion x = .quadrature := by
  cases region : chooseRegion x with
  | quadrature => rfl
  | normal =>
    have sums : x.sn ≠ 0 := fun h => Region.noConfusion (region.symm.trans (chooseRegion_of_sn_eq_zero h))
    have range := rawOffset_normal_spec bound region sums
    omega

section

variable {fr : FrameReducer} {floor signal : Nat} {f : FrameRecord}

theorem reduceFrame_of_void (known : f.head.val < fr.heads) (void : isVoid f fr.wpr (burstSums f floor) = true) :
    reduceFrame fr floor signal f =
      { offset := 0, region := .normal, grade := .void, zone := (frameZone f fr.zones).1
        zoneUnknown := (frameZone f fr.zones).2, signalSum := (burstSums f floor).sn + (burstSums f floor).sq } :=
  (if_neg (Nat.not_le_of_lt known)).trans (if_pos void)

theorem reduceFrame_of_clamped (known : f.head.val < fr.heads) (void : ¬ isVoid f fr.wpr (burstSums f floor) = true)
    (at512 : rawOffset (burstSums f floor) = 512) : reduceFrame fr floor signal f =
      { offset := 511, region := chooseRegion (burstSums f floor), grade := .clamped, zone := (frameZone f fr.zones).1
        zoneUnknown := (frameZone f fr.zones).2, signalSum := (burstSums f floor).sn + (burstSums f floor).sq } :=
  (if_neg (Nat.not_le_of_lt known)).trans ((if_neg void).trans (if_pos at512))

theorem reduceFrame_of_offset (known : f.head.val < fr.heads) (void : ¬ isVoid f fr.wpr (burstSums f floor) = true)
    (at512 : rawOffset (burstSums f floor) ≠ 512) : reduceFrame fr floor signal f =
      { offset := rawOffset (burstSums f floor), region := chooseRegion (burstSums f floor)
        grade := if (burstSums f floor).sn + (burstSums f floor).sq < signal then .weak else .good
        zone := (frameZone f fr.zones).1, zoneUnknown := (frameZone f fr.zones).2
        signalSum := (burstSums f floor).sn + (burstSums f floor).sq } :=
  (if_neg (Nat.not_le_of_lt known)).trans ((if_neg void).trans (if_neg at512))

/-- The zone and the signal sum of a frame that is not FOREIGN, whatever its grade (R11, R12). -/
theorem reduceFrame_zone (known : f.head.val < fr.heads) :
    (reduceFrame fr floor signal f).zone = (frameZone f fr.zones).1 ∧
    (reduceFrame fr floor signal f).zoneUnknown = (frameZone f fr.zones).2 ∧
    (reduceFrame fr floor signal f).signalSum = (burstSums f floor).sn + (burstSums f floor).sq := by
  by_cases void : isVoid f fr.wpr (burstSums f floor) = true
  · rw [reduceFrame_of_void known void]
    exact ⟨rfl, rfl, rfl⟩
  · by_cases at512 : rawOffset (burstSums f floor) = 512
    · rw [reduceFrame_of_clamped known void at512]
      exact ⟨rfl, rfl, rfl⟩
    · rw [reduceFrame_of_offset known void at512]
      exact ⟨rfl, rfl, rfl⟩

/-- The grade of a frame that is not FOREIGN, with the offset and the region that go with it (R10). -/
theorem reduceFrame_grade (known : f.head.val < fr.heads) :
    let r := reduceFrame fr floor signal f
    let x := burstSums f floor
    r.grade = (if f.markFound = false ∨ f.trackValid = false ∨ fr.wpr ≤ f.wedge ∨ (x.sn = 0 ∧ x.sq = 0) then .void
      else if rawOffset x = 512 then .clamped else if x.sn + x.sq < signal then .weak else .good) ∧
    (r.grade = .void → r.offset = 0 ∧ r.region = .normal) ∧
    (r.grade = .clamped → r.offset = 511 ∧ r.region = .quadrature) ∧
    (r.grade = .weak ∨ r.grade = .good → r.offset = rawOffset x ∧ r.region = chooseRegion x) := by
  simp only [← isVoid_iff]
  by_cases void : isVoid f fr.wpr (burstSums f floor) = true
  · rw [reduceFrame_of_void known void, if_pos void]
    exact ⟨rfl, fun _ => ⟨rfl, rfl⟩, fun h => Grade.noConfusion h,
      fun h => h.elim (fun weak => Grade.noConfusion weak) fun good => Grade.noConfusion good⟩
  · rw [if_neg void]
    by_cases at512 : rawOffset (burstSums f floor) = 512
    · rw [reduceFrame_of_clamped known void at512, if_pos at512]
      exact ⟨rfl, fun h => Grade.noConfusion h,
        fun _ => ⟨rfl, quadrature_of_rawOffset (burstSums_n_natAbs_le f floor) at512⟩,
        fun h => h.elim (fun weak => Grade.noConfusion weak) fun good => Grade.noConfusion good⟩
    · rw [reduceFrame_of_offset known void at512, if_neg at512]
      by_cases weak : (burstSums f floor).sn + (burstSums f floor).sq < signal
      · simp only [if_pos weak]
        exact ⟨trivial, fun h => Grade.noConfusion h, fun h => Grade.noConfusion h, fun _ => ⟨trivial, trivial⟩⟩
      · simp only [if_neg weak]
        exact ⟨trivial, fun h => Grade.noConfusion h, fun h => Grade.noConfusion h, fun _ => ⟨trivial, trivial⟩⟩

end

/-- Settles O47: the grade by the branches of the reduction, the zone by the search of R12, which finds a zone since zone 0 starts at
track 0. -/
theorem frameIsGradedAndZoned : Obligations.FrameIsGradedAndZoned := by
  intro fr floor signal f inv
  obtain ⟨lengths, zero, -, -⟩ := inv.zones
  obtain ⟨some_zone, few⟩ := inv.zoneCount
  rw [← lengths] at some_zone few
  refine ⟨fun foreign => if_pos foreign, fun known => ?_⟩
  obtain ⟨zone, unknown, sum⟩ := reduceFrame_zone (fr := fr) (floor := floor) (signal := signal) known
  obtain ⟨grade, void, clamped, offset⟩ := reduceFrame_grade (fr := fr) (floor := floor) (signal := signal) known
  refine ⟨sum, grade, void, clamped, offset, fun invalid => ?_, fun valid => ?_⟩
  · rw [zone, unknown, frameZone, invalid]
    exact ⟨rfl, rfl⟩
  · rw [zone, unknown, frameZone, if_pos valid, ← lengths]
    have first : fr.zones.getD 0 0 = 0 := by
      cases hz : fr.zones with
      | nil => rfl
      | cons t zones => rw [hz] at zero; exact zero
    exact ⟨rfl, zoneOf_spec f.track some_zone few first⟩

/-! ## The encoding of a figure (R122) -/

/-- A committed value in field units: exact from a scale of 10 on, rounded below, and of 14 bits at most. -/
theorem scaleFigure_spec {v : Int} {k : Nat} (low : -512 ≤ v) (high : v ≤ 511) (least : 4 ≤ k) (most : k ≤ 14) :
    (10 ≤ k → scaleFigure v k = v * 2 ^ (k - 10)) ∧ (k < 10 → IsRound (scaleFigure v k) v (2 ^ (10 - k))) ∧
    -8192 ≤ scaleFigure v k ∧ scaleFigure v k ≤ 8191 := by
  by_cases h : 10 ≤ k
  · rw [scaleFigure, if_pos h]
    refine ⟨fun _ => rfl, fun below => absurd h (Nat.not_le_of_lt below), ?_⟩
    obtain ⟨j, rfl⟩ : ∃ j, k = 10 + j := ⟨k - 10, by omega⟩
    have few : j = 0 ∨ j = 1 ∨ j = 2 ∨ j = 3 ∨ j = 4 := by omega
    rw [Nat.add_sub_cancel_left]
    rcases few with rfl | rfl | rfl | rfl | rfl <;> omega
  · rw [scaleFigure, if_neg h]
    have pos : 0 < 2 ^ (10 - k) := Nat.two_pow_pos _
    have range : -512 ≤ roundDiv v (2 ^ (10 - k)) ∧ roundDiv v (2 ^ (10 - k)) ≤ 511 :=
      roundDiv_bounds pos (by omega) (by omega)
    exact ⟨fun above => absurd above h, fun _ => roundDiv_isRound v _ pos, by omega, by omega⟩

/-- The range of a width and an encoding: `half` on either side, short of it by 1 above, and below for SIGNMAG. -/
theorem fieldRange_eq {width : Nat} (h : width = 8 ∨ width = 16) (enc : Encoding) : fieldRange width enc =
    (if enc = .signMag then 1 - (2 : Int) ^ (width - 1) else -(2 : Int) ^ (width - 1), (2 : Int) ^ (width - 1) - 1) := by
  rcases h with rfl | rfl <;> cases enc <;> rfl

/-- A limited value lies in the range of its width and encoding. -/
theorem limitFigure_range {width : Nat} (h : width = 8 ∨ width = 16) (enc : Encoding) (x : Int) :
    -(2 : Int) ^ (width - 1) ≤ limitFigure width enc x ∧ limitFigure width enc x < (2 : Int) ^ (width - 1) ∧
    limitFigure width enc x =
      max (if enc = .signMag then 1 - (2 : Int) ^ (width - 1) else -(2 : Int) ^ (width - 1))
        (min ((2 : Int) ^ (width - 1) - 1) x) := by
  rw [limitFigure, fieldRange_eq h]
  have half : (2 : Int) ^ (width - 1) = 128 ∨ (2 : Int) ^ (width - 1) = 32768 := by
    rcases h with rfl | rfl
    · exact Or.inl rfl
    · exact Or.inr rfl
  generalize (2 : Int) ^ (width - 1) = half at *
  split <;> omega

/-- The raw content of a value within the range of its width. -/
theorem rawContent_cast {width : Nat} (h : width = 8 ∨ width = 16) (enc : Encoding) {x : Int} (low : -(2 : Int) ^ (width - 1) ≤ x) :
    (enc = .twos → (rawContent width enc x : Int) = x % (2 * 2 ^ (width - 1))) ∧
    (enc = .offset → (rawContent width enc x : Int) = x + 2 ^ (width - 1)) ∧
    (enc = .signMag → (rawContent width enc x : Int) = if x < 0 then 2 ^ (width - 1) + -x else x) := by
  refine ⟨fun twos => ?_, fun offset => ?_, fun signMag => ?_⟩
  · rw [twos, rawContent]
    rcases h with rfl | rfl <;> omega
  · rw [offset, rawContent]
    omega
  · rw [signMag, rawContent]
    split
    · simp only [Nat.cast_add, Nat.cast_pow, Nat.cast_ofNat]
      omega
    · omega

/-- Settles O55: the scaled value and the limited value are those the encoding computes; in 16 bits the scaled value is short of the
limits. -/
theorem figureIsScaledLimitedAndEncoded : Obligations.FigureIsScaledLimitedAndEncoded := by
  intro e v low high width least most
  obtain ⟨exact_, rounded, bound⟩ := scaleFigure_spec low high least most
  obtain ⟨lowest, highest, limited⟩ := limitFigure_range width e.encoding (scaleFigure v e.scale)
  refine ⟨scaleFigure v e.scale, limitFigure e.width e.encoding (scaleFigure v e.scale), exact_, rounded,
    ⟨limited, rawContent_cast width e.encoding lowest⟩, decide_eq_true_iff, fun wide => ?_⟩
  rw [limited, wide]
  split <;> omega

/-! ## The substitution of returned data (R125, R126) -/

/-- A byte of packed bytes. -/
theorem packBytes_byte (l : List Nat) (small : ∀ x ∈ l, x < 256) (i : Nat) : packBytes l / 256 ^ i % 256 = l.getD i 0 := by
  induction l generalizing i with
  | nil => simp [packBytes]
  | cons b l ih =>
    have first : b < 256 := small b List.mem_cons_self
    cases i with
    | zero =>
      simp only [packBytes, Nat.pow_zero, Nat.div_one, List.getD_cons_zero]
      omega
    | succ i =>
      rw [packBytes, Nat.pow_succ', ← Nat.div_div_eq_div_mul, List.getD_cons_succ,
        ← ih (fun x hx => small x (List.mem_cons_of_mem _ hx))]
      congr 2
      omega

/-- Packed bytes fit the bytes they are. -/
theorem packBytes_lt (l : List Nat) (small : ∀ x ∈ l, x < 256) : packBytes l < 256 ^ l.length := by
  induction l with
  | nil => exact Nat.one_pos
  | cons b l ih =>
    have first : b < 256 := small b List.mem_cons_self
    have rest := ih fun x hx => small x (List.mem_cons_of_mem _ hx)
    rw [packBytes, List.length_cons, Nat.pow_succ']
    omega

/-- A byte of a beat, as a figure. -/
theorem beatByte_eq (d : BitVec 64) (i : Nat) : beatByte d i = d.toNat / 256 ^ i % 256 := by
  rw [beatByte, BitVec.extractLsb'_toNat, Nat.shiftRight_eq_div_pow, Nat.pow_mul]

theorem beatByte_lt (d : BitVec 64) (i : Nat) : beatByte d i < 256 := (d.extractLsb' (8 * i) 8).isLt

/-- Two bytes of a beat, side by side. -/
theorem extract_two_bytes (d : BitVec 64) (i : Nat) :
    (d.extractLsb' (8 * i) 16).toNat = beatByte d i + 256 * beatByte d (i + 1) := by
  have next : 256 ^ (i + 1) = 256 ^ i * 256 := Nat.pow_succ _ _
  rw [beatByte_eq, beatByte_eq, BitVec.extractLsb'_toNat, Nat.shiftRight_eq_div_pow, Nat.pow_mul, next,
    ← Nat.div_div_eq_div_mul]
  change d.toNat / 256 ^ i % 65536 = _
  omega

/-- A byte is served by a LIVE entry that holds it, from its frozen value. -/
theorem servedByte_eq_some {o x : Nat} {e : PatchEntry} : servedByte o e = some x ↔ ∃ frozen, e.state = .live frozen ∧
    (e.offset ≤ o ∧ o < e.offset + e.width / 8) ∧ frozen / 256 ^ (o - e.offset) % 256 = x := by
  cases state : e.state with
  | dormant => simp [servedByte, state]
  | live frozen => simp [servedByte, state]

theorem servedByte_lt {o x : Nat} {e : PatchEntry} (h : servedByte o e = some x) : x < 256 := by
  obtain ⟨frozen, -, -, rfl⟩ := servedByte_eq_some.mp h
  exact Nat.mod_lt _ (by decide)

theorem substituteByte_lt (ip : ImagePatcher) (w : ImageWindow) (a : Nat) (d : BitVec 64) (i : Nat) :
    substituteByte ip w a d i < 256 := by
  have memory := beatByte_lt d i
  simp only [substituteByte]
  split
  · split
    · omega
    · split
      · omega
      · cases found : ip.map.findSome? (servedByte (a + i - w.base)) with
        | none => exact memory
        | some x =>
          obtain ⟨e, -, served⟩ := List.exists_of_findSome?_eq_some found
          exact servedByte_lt served
  · exact memory

/-- A byte of a beat that the Image Patcher packs. -/
theorem beatByte_packed (f : Nat → Nat) (small : ∀ i, f i < 256) {i : Nat} (hi : i < 8) :
    beatByte (BitVec.ofNat 64 (packBytes ((List.range 8).map f))) i = f i := by
  have bytes : ∀ x ∈ (List.range 8).map f, x < 256 := by
    intro x hx
    obtain ⟨j, -, rfl⟩ := List.mem_map.mp hx
    exact small j
  have whole : packBytes ((List.range 8).map f) < 2 ^ 64 := by
    have bound := packBytes_lt _ bytes
    rwa [List.length_map, List.length_range, show (256 : Nat) ^ 8 = 2 ^ 64 by norm_num] at bound
  rw [beatByte_eq, BitVec.toNat_ofNat, Nat.mod_eq_of_lt whole, packBytes_byte _ bytes, List.getD_eq_getElem?_getD,
    List.getElem?_map, List.getElem?_range hi]
  rfl

/-- Unless the image is PUBLISHED over a window, returned data is as memory gave it. -/
theorem substituteBeat_unpublished {ip : ImagePatcher} (h : ip.state ≠ .published ∨ ip.window = none) (a : Nat) (d : BitVec 64) :
    substituteBeat ip a d = d := by
  cases state : ip.state with
  | unset => simp only [substituteBeat, state]
  | loading => simp only [substituteBeat, state]
  | published =>
    have none_ : ip.window = none := h.resolve_left fun other => other state
    simp only [substituteBeat, state, none_]

/-- While PUBLISHED each byte of a beat is what the Image Patcher gives for it. -/
theorem substituteBeat_byte {ip : ImagePatcher} {w : ImageWindow} (published : ip.state = .published) (window : ip.window = some w)
    (a : Nat) (d : BitVec 64) {i : Nat} (hi : i < 8) :
    ((substituteBeat ip a d).extractLsb' (8 * i) 8).toNat = substituteByte ip w a d i := by
  have packed : substituteBeat ip a d = BitVec.ofNat 64 (packBytes ((List.range 8).map (substituteByte ip w a d))) := by
    simp only [substituteBeat, published, window]
  rw [packed]
  exact beatByte_packed _ (substituteByte_lt ip w a d) hi

/-- The first entry that serves a byte gives it; where one LIVE entry alone holds the byte, that one does. -/
theorem findSome?_servedByte {m : List PatchEntry} {e : PatchEntry} {frozen o : Nat} (he : e ∈ m) (live : e.state = .live frozen)
    (holds : e.offset ≤ o ∧ o < e.offset + e.width / 8)
    (alone : ∀ x ∈ m, x.isLive = true → x.offset ≤ o ∧ o < x.offset + x.width / 8 → x = e) :
    m.findSome? (servedByte o) = some (frozen / 256 ^ (o - e.offset) % 256) := by
  have serves : servedByte o e = some (frozen / 256 ^ (o - e.offset) % 256) :=
    servedByte_eq_some.mpr ⟨frozen, live, holds, rfl⟩
  cases found : m.findSome? (servedByte o) with
  | none => exact absurd (serves.symm.trans (List.findSome?_eq_none_iff.mp found e he)) (Option.some_ne_none _)
  | some y =>
    obtain ⟨x, hx, served⟩ := List.exists_of_findSome?_eq_some found
    obtain ⟨other, state, own, -⟩ := servedByte_eq_some.mp served
    rw [alone x hx (by rw [PatchEntry.isLive, state]) own, serves] at served
    exact served.symm

/-- A byte that no LIVE entry holds is served by none. -/
theorem findSome?_servedByte_none {m : List PatchEntry} {o : Nat}
    (free : ∀ e ∈ m, e.isLive = true → ¬ (e.offset ≤ o ∧ o < e.offset + e.width / 8)) :
    m.findSome? (servedByte o) = none := by
  refine List.findSome?_eq_none_iff.mpr fun e he => Option.eq_none_iff_forall_ne_some.mpr fun x served => ?_
  obtain ⟨frozen, state, own, -⟩ := servedByte_eq_some.mp served
  exact free e he (by rw [PatchEntry.isLive, state]) own

/-- A byte outside the image window is memory's. -/
theorem substituteByte_outside {ip : ImagePatcher} {w : ImageWindow} {a i : Nat} (d : BitVec 64)
    (h : a + i < w.base ∨ w.base + w.length ≤ a + i) : substituteByte ip w a d i = beatByte d i :=
  if_neg (by omega)

/-- A byte of the checksum word is that of the stored word plus the adjustment (R126). The word lies at an even offset, so its lower
byte comes from an even lane. -/
theorem substituteByte_checksum {ip : ImagePatcher} {w : ImageWindow} {a i : Nat} (d : BitVec 64) (aligned : a % 8 = 0)
    (base : w.base % 64 = 0) (even : w.checksum % 2 = 0) (low : w.base ≤ a + i) (high : a + i < w.base + w.length)
    (h : (a + i - w.base) / 2 * 2 = w.checksum) : substituteByte ip w a d i =
      ((d.extractLsb' (8 * (i / 2 * 2)) 16).toNat + ip.adjustment) % 65536 / 256 ^ (i % 2) % 256 := by
  rw [substituteByte, if_pos ⟨low, high⟩, extract_two_bytes]
  rcases Nat.mod_two_eq_zero_or_one i with parity | parity
  · have lane : i / 2 * 2 = i := by omega
    rw [if_pos (by omega), lane, parity, Nat.pow_zero, Nat.div_one]
  · have lane : i / 2 * 2 = i - 1 := by omega
    have next : i - 1 + 1 = i := by omega
    rw [if_neg (by omega), if_pos (by omega), lane, next, parity, Nat.pow_one]
    omega

/-- A byte of the window beside the checksum word is the one a LIVE entry serves, or memory's (R125). -/
theorem substituteByte_mapped {ip : ImagePatcher} {w : ImageWindow} {a i : Nat} (d : BitVec 64) (even : w.checksum % 2 = 0)
    (low : w.base ≤ a + i) (high : a + i < w.base + w.length) (h : (a + i - w.base) / 2 * 2 ≠ w.checksum) :
    substituteByte ip w a d i = (ip.map.findSome? (servedByte (a + i - w.base))).getD (beatByte d i) := by
  rw [substituteByte, if_pos ⟨low, high⟩, if_neg (by omega), if_neg (by omega)]

/-- Settles O46: byte by byte, by where the byte lies. -/
theorem returnedBytesAreSubstituted : Obligations.ReturnedBytesAreSubstituted := by
  intro ip a d aligned
  refine ⟨fun h => substituteBeat_unpublished h a d, fun w i published window hi base even => ?_⟩
  intro byte memory o holds
  have packed : byte = substituteByte ip w a d i := substituteBeat_byte published window a d hi
  rw [packed]
  refine ⟨substituteByte_outside d, fun low high => ⟨substituteByte_checksum d aligned base even low high, fun other =>
    ⟨fun e he frozen live own alone => ?_, fun free => ?_⟩⟩⟩
  · rw [substituteByte_mapped d even low high other, findSome?_servedByte he live own alone]
    rfl
  · rw [substituteByte_mapped d even low high other, findSome?_servedByte_none free]
    rfl

end Sys2Proof.Proofs
end

section
/-! The judgement of a frame in its head's follow state (section 2.3). -/

namespace Sys2Proof.Proofs

open Sys2Proof.Machine

/-! ## The judgement in a follow state (R32 to R35) -/

theorem inWindow_iff {grade : Grade} {p : Int} {window : Nat} :
    inWindow grade p window = true ↔ grade = .good ∧ p.natAbs ≤ window := by
  simp only [inWindow, Bool.and_eq_true, decide_eq_true_eq]

/-- The head enters FOLLOWING when a condition holds (R33, R35, R37). -/
def followIf (c : Prop) [Decidable c] (r : FollowRecord) : FollowRecord := if c then enterFollowing r else r

section

variable {settle inhibit : Nat} {grade : Grade} {p : Int} {r : FollowRecord}

theorem judgeFrame_acquiring_inside (h : r.state = .acquiring) (inside : inWindow grade p r.window = true) :
    judgeFrame settle inhibit grade p r = followIf (settle ≤ 1)
      { r with state := .settling, run := 1, history := { r.history with settling := true } } := by
  simp only [judgeFrame, h, inside, if_true]
  rfl

theorem judgeFrame_acquiring_outside (h : r.state = .acquiring) (outside : inWindow grade p r.window = false) :
    judgeFrame settle inhibit grade p r = { r with run := 0 } := by
  simp only [judgeFrame, h, outside, Bool.false_eq_true, if_false]

theorem judgeFrame_settling_inside (h : r.state = .settling) (inside : inWindow grade p r.window = true) :
    judgeFrame settle inhibit grade p r = followIf (settle ≤ min 255 (r.run + 1)) { r with run := min 255 (r.run + 1) } := by
  simp only [judgeFrame, h, inside, if_true]
  rfl

theorem judgeFrame_settling_outside (h : r.state = .settling) (outside : inWindow grade p r.window = false) :
    judgeFrame settle inhibit grade p r = enterAcquiring r := by
  simp only [judgeFrame, h, outside, Bool.false_eq_true, if_false]

theorem judgeFrame_following_slips (h : r.state = .following)
    (lost : grade = .void ∨ (grade = .good ∧ ¬ inWindow grade p r.window = true)) :
    judgeFrame settle inhibit grade p r = { r with state := .slipped, run := 0, history := { r.history with slipped := true } } := by
  simp only [judgeFrame, h]
  exact if_pos lost

theorem judgeFrame_following_stays (h : r.state = .following)
    (kept : ¬ (grade = .void ∨ (grade = .good ∧ ¬ inWindow grade p r.window = true))) :
    judgeFrame settle inhibit grade p r = r := by
  simp only [judgeFrame, h]
  exact if_neg kept

theorem judgeFrame_slipped_inside (h : r.state = .slipped) (inside : inWindow grade p r.window = true) :
    judgeFrame settle inhibit grade p r = followIf (inhibit ≤ min 255 (r.run + 1)) { r with run := min 255 (r.run + 1) } := by
  simp only [judgeFrame, h, inside, if_true]
  rfl

theorem judgeFrame_slipped_outside (h : r.state = .slipped) (outside : inWindow grade p r.window = false) :
    judgeFrame settle inhibit grade p r = { r with run := 0 } := by
  simp only [judgeFrame, h, outside, Bool.false_eq_true, if_false]

theorem judgeFrame_parked (h : r.state = .unseen ∨ r.state = .dormant) : judgeFrame settle inhibit grade p r = r := by
  rcases h with h | h <;> simp only [judgeFrame, h]

end

theorem isSlip_iff {before after : FollowRecord} :
    isSlip before after = true ↔ before.state = .following ∧ after.state = .slipped := by
  simp only [isSlip, Bool.and_eq_true, decide_eq_true_eq]

/-- What the judgement of one frame says of the record it leaves, by the state before (R32 to R35, R37): the clauses on the run count
and the state, and those on the counts, the history set and the settings. -/
structure Judged (settle inhibit : Nat) (grade : Grade) (inside : Prop) (r t : FollowRecord) : Prop where
  acquired : r.state = .acquiring → inside → t.run = 1 ∧ t.state = if settle ≤ 1 then .following else .settling
  missed : r.state = .acquiring → ¬ inside → t.run = 0 ∧ t.state = .acquiring
  settled : r.state = .settling → inside →
    t.run = min 255 (r.run + 1) ∧ t.state = if settle ≤ min 255 (r.run + 1) then .following else .settling
  fallen : r.state = .settling ∧ ¬ inside → t.run = 0 ∧ t.state = .acquiring
  slips : r.state = .following → grade = .void ∨ (grade = .good ∧ ¬ inside) → t.run = 0 ∧ t.state = .slipped
  stays : r.state = .following → ¬ (grade = .void ∨ (grade = .good ∧ ¬ inside)) → t.run = r.run ∧ t.state = .following
  returns : r.state = .slipped → inside →
    t.run = min 255 (r.run + 1) ∧ t.state = if inhibit ≤ min 255 (r.run + 1) then .following else .slipped
  out : r.state = .slipped → ¬ inside → t.run = 0 ∧ t.state = .slipped
  restarts : r.state = .settling ∧ ¬ inside → t.acquire = 0 ∧ t.noLockRaised = false
  keeps : ¬ (r.state = .settling ∧ ¬ inside) → t.acquire = r.acquire ∧ t.noLockRaised = r.noLockRaised
  acquiring : t.history.acquiring = true ↔ r.history.acquiring = true ∨ (r.state = .settling ∧ ¬ inside)
  settling : t.history.settling = true ↔ r.history.settling = true ∨ (r.state = .acquiring ∧ inside)
  following : t.history.following = true ↔ r.history.following = true ∨ (t.state = .following ∧ r.state ≠ .following)
  slipped : t.history.slipped = true ↔ r.history.slipped = true ∨ (r.state = .following ∧ t.state = .slipped)
  settings : t.floor = r.floor ∧ t.signal = r.signal ∧ t.window = r.window

theorem judgeFrame_judged (settle inhibit : Nat) (grade : Grade) (p : Int) (r : FollowRecord) :
    Judged settle inhibit grade (inWindow grade p r.window = true) r (judgeFrame settle inhibit grade p r) := by
  cases state : r.state with
  | unseen =>
    rw [judgeFrame_parked (Or.inl state)]
    constructor <;> simp [state]
  | dormant =>
    rw [judgeFrame_parked (Or.inr state)]
    constructor <;> simp [state]
  | acquiring =>
    cases inside : inWindow grade p r.window with
    | false =>
      rw [judgeFrame_acquiring_outside state inside]
      constructor <;> simp [state]
    | true =>
      rw [judgeFrame_acquiring_inside state inside]
      by_cases reached : settle ≤ 1 <;> constructor <;> simp [state, followIf, enterFollowing, reached]
  | settling =>
    cases inside : inWindow grade p r.window with
    | false =>
      rw [judgeFrame_settling_outside state inside]
      constructor <;> simp [state, enterAcquiring]
    | true =>
      rw [judgeFrame_settling_inside state inside]
      by_cases reached : settle ≤ min 255 (r.run + 1) <;> constructor <;>
        simp [state, followIf, enterFollowing, reached]
  | following =>
    by_cases lost : grade = .void ∨ (grade = .good ∧ ¬ inWindow grade p r.window = true)
    · rw [judgeFrame_following_slips state lost]
      constructor <;> simp [state]
      exact fun other => by simpa using lost.resolve_left other
    · rw [judgeFrame_following_stays state lost]
      constructor <;> simp [state]
      simpa using lost
  | slipped =>
    cases inside : inWindow grade p r.window with
    | false =>
      rw [judgeFrame_slipped_outside state inside]
      constructor <;> simp [state]
    | true =>
      rw [judgeFrame_slipped_inside state inside]
      by_cases reached : inhibit ≤ min 255 (r.run + 1) <;> constructor <;>
        simp [state, followIf, enterFollowing, reached]

/-! ## The counts after the judgement (R36) -/

theorem seeking_iff {r : FollowRecord} : seeking r = true ↔ r.state = .acquiring ∨ r.state = .settling := by
  simp only [seeking, Bool.or_eq_true, decide_eq_true_eq]

/-- The acquire count moves, and nothing else of the record. -/
theorem countAcquire_eq (r : FollowRecord) : countAcquire r =
    { r with acquire := if seeking r then min 4095 (r.acquire + 1) else r.acquire } := by
  rw [countAcquire]
  split <;> rfl

theorem noLockDue_iff {limit : Nat} {r : FollowRecord} : noLockDue limit r = true ↔
    (r.state = .acquiring ∨ r.state = .settling) ∧ limit ≤ r.acquire ∧ r.noLockRaised = false := by
  simp only [noLockDue, Bool.and_eq_true, decide_eq_true_eq, Bool.not_eq_true', seeking_iff, and_assoc]

/-- A judged record with its acquire count, and its flag for NO LOCK once that is raised. -/
def countedRecord (limit : Nat) (judged : FollowRecord) : FollowRecord :=
  { judged with
    acquire := if seeking judged then min 4095 (judged.acquire + 1) else judged.acquire
    noLockRaised := judged.noLockRaised || noLockDue limit (countAcquire judged) }

theorem followFrame_eq (wpr gapLimit : Nat) (fm : FollowMonitor) (x : FrameSeen) :
    let e := entryChecks wpr gapLimit fm x
    let judged := judgeFrame e.fm.settle e.fm.inhibit x.grade x.offset (e.fm.record x.head)
    followFrame wpr gapLimit fm x =
      { fm := { e.fm.setRecord x.head (countedRecord e.fm.acquireLimit judged) with last := updateLast wpr x e.fm.last }
        gap := e.gap, missed := e.missed, slip := isSlip (e.fm.record x.head) judged
        noLock := noLockDue e.fm.acquireLimit (countAcquire judged) } := by
  intro e judged
  have final : (if noLockDue e.fm.acquireLimit (countAcquire judged) then { countAcquire judged with noLockRaised := true }
      else countAcquire judged) = countedRecord e.fm.acquireLimit judged := by
    rw [countedRecord]
    cases due : noLockDue e.fm.acquireLimit (countAcquire judged) with
    | true => simp [countAcquire_eq]
    | false => simp [countAcquire_eq]
  rw [← final]
  rfl

section

variable (limit : Nat) (judged : FollowRecord)

theorem countedRecord_acquire : (countedRecord limit judged).acquire =
    if judged.state = .acquiring ∨ judged.state = .settling then min 4095 (judged.acquire + 1) else judged.acquire :=
  if_congr seeking_iff rfl rfl

theorem countedRecord_noLockRaised : (countedRecord limit judged).noLockRaised = true ↔
    judged.noLockRaised = true ∨ noLockDue limit (countAcquire judged) = true :=
  Bool.or_eq_true_iff

/-- NO LOCK is due by the counted record, whose flag is still that of the judgement. -/
theorem noLockDue_counted : noLockDue limit (countAcquire judged) = true ↔
    (judged.state = .acquiring ∨ judged.state = .settling) ∧ limit ≤ (countedRecord limit judged).acquire ∧
      judged.noLockRaised = false := by
  rw [noLockDue_iff, countAcquire_eq]
  rfl

end

/-- Settles O52: each clause is one of `Judged`, the counts after it those of R36. -/
theorem frameIsJudgedInItsFollowState : Obligations.FrameIsJudgedInItsFollowState := by
  intro wpr gapLimit fm x e r a t inside run fell acquire flag seeks
  have whole : a = _ := followFrame_eq wpr gapLimit fm x
  have j := judgeFrame_judged e.fm.settle e.fm.inhibit x.grade x.offset r
  have answer : answerFollow wpr gapLimit fm x = (judgeFrame e.fm.settle e.fm.inhibit x.grade x.offset r).state := rfl
  rw [inWindow_iff] at j
  change a = FollowResult.mk { e.fm.setRecord x.head (countedRecord e.fm.acquireLimit
    (judgeFrame e.fm.settle e.fm.inhibit x.grade x.offset r)) with last := updateLast wpr x e.fm.last } e.gap e.missed
    (isSlip r (judgeFrame e.fm.settle e.fm.inhibit x.grade x.offset r))
    (noLockDue e.fm.acquireLimit (countAcquire (judgeFrame e.fm.settle e.fm.inhibit x.grade x.offset r))) at whole
  generalize judgeFrame e.fm.settle e.fm.inhibit x.grade x.offset r = judged at j whole answer
  have records : ∀ h, a.fm.record h = if h = x.head then countedRecord e.fm.acquireLimit judged else e.fm.record h := by
    intro h
    rw [whole]
    exact FollowMonitor.setRecord_record ..
  have record : t = countedRecord e.fm.acquireLimit judged := (records x.head).trans (if_pos rfl)
  have slip : a.slip = true ↔ r.state = .following ∧ judged.state = .slipped := by rw [whole]; exact isSlip_iff
  have noLock : a.noLock = noLockDue e.fm.acquireLimit (countAcquire judged) := by rw [whole]
  have counts : judged.acquire = acquire ∧ judged.noLockRaised = flag := by
    by_cases h : fell
    · exact ⟨(j.restarts h).1.trans (if_pos h).symm, (j.restarts h).2.trans (if_pos h).symm⟩
    · exact ⟨(j.keeps h).1.trans (if_neg h).symm, (j.keeps h).2.trans (if_neg h).symm⟩
  have last : a.fm.last = updateLast wpr x e.fm.last := by rw [whole]
  have frame : { a.fm with records := e.fm.records, last := e.fm.last } = e.fm := by rw [whole]; rfl
  clear_value t
  subst record
  refine ⟨j.acquired, j.missed, j.settled, j.fallen, fun h lost => ?_, j.stays, j.returns, j.out, slip.mp, ?_, ?_, ?_, j.acquiring,
    j.settling, j.following, ?_, j.settings, fun h other => (records h).trans (if_neg other), frame, ?_, ?_, ?_, answer⟩
  · exact ⟨(j.slips h lost).1, (j.slips h lost).2, slip.mpr ⟨h, (j.slips h lost).2⟩⟩
  · rw [← counts.1]
    exact countedRecord_acquire e.fm.acquireLimit judged
  · rw [noLock, ← counts.2]
    exact noLockDue_counted e.fm.acquireLimit judged
  · rw [noLock, ← counts.2]
    exact countedRecord_noLockRaised e.fm.acquireLimit judged
  · rw [slip]
    exact j.slipped
  · rw [last, updateLast]
    simp only [Bool.and_eq_true, decide_eq_true_eq]
  · rw [whole]
  · rw [whole]

end Sys2Proof.Proofs
end

section
/-! Frames at the Sweep Controller (sections 5.4, 5.8, 6.1) and the close of a cell (sections 4.2, 5.6, 6.2 to 6.4). -/

namespace Sys2Proof.Proofs

open Sys2Proof.Machine

/-! ## Which frames qualify (R84) -/

theorem qualifies_iff {sc : SweepController} {spindle : SpindleState} {head : Fin 16} {r : Reduction} {follow : FollowState} :
    qualifies sc spindle head r follow = true ↔ (sc.state = .awaitHead ∨ sc.state = .measuring) ∧ sc.holder = none ∧
      head = sc.currentHead ∧ r.zoneUnknown = false ∧ r.zone = sc.zone ∧ r.grade = .good ∧ follow = .following ∧
      (sc.atSpeed = true → spindle = .atSpeed) := by
  simp only [qualifies, sweepOpen, Bool.and_eq_true, Bool.or_eq_true, decide_eq_true_eq, Option.isNone_iff_eq_none,
    Bool.not_eq_true', and_assoc, ← Bool.not_eq_true, imp_iff_not_or]

/-! ## The accumulator (R87, R100) -/

theorem lesser_eq (x : Option Int) (p : Int) : lesser x p = some (min (x.getD p) p) := by
  cases x with
  | none => exact congrArg some (min_self p).symm
  | some m => rfl

theorem greater_eq (x : Option Int) (p : Int) : greater x p = some (max (x.getD p) p) := by
  cases x with
  | none => exact congrArg some (max_self p).symm
  | some m => rfl

/-- The accumulator after a qualifying frame, its missed wedges and its slip included. -/
theorem accumulate_addMissed (a : Accumulator) (p : Int) (w missed : Nat) (slip : Bool) :
    accumulate (addMissed a missed slip) p w =
      { n := a.n + 1, sumP := a.sumP + p, sumP2 := a.sumP2 + p.natAbs ^ 2, sumW := a.sumW + w, sumWP := a.sumWP + w * p
        least := if w = 0 then a.least else some (min (a.least.getD p) p)
        greatest := if w = 0 then a.greatest else some (max (a.greatest.getD p) p)
        missed := min 65535 (a.missed + missed), slips := min 65535 (a.slips + if slip then 1 else 0) } := by
  have one : slip.toNat = if slip then 1 else 0 := by cases slip <;> rfl
  rw [Nat.pow_two, ← one]
  by_cases weightless : w = 0
  · rw [accumulate, if_neg (by omega), if_neg (by omega), if_pos weightless, if_pos weightless]
    rfl
  · rw [accumulate, if_pos (by omega), if_pos (by omega), if_neg weightless, if_neg weightless, ← lesser_eq, ← greater_eq]
    rfl

/-- The accumulator that a qualifying frame enters: that of the open cell, or a clear one for the cell it opens (R85). -/
def openAccumulator (sc : SweepController) : Accumulator :=
  if sc.state = .measuring then sc.acc else Accumulator.clear

/-- The Sweep Controller in MEASURING with a qualifying frame in the accumulator (R86). -/
def gatheredInto (s : State) (f : CompletedFrame) : State :=
  s.withSc { s.sc with
    state := .measuring
    acc := accumulate (addMissed (openAccumulator s.sc) f.missed f.slip) f.reduction.offset
      (f.amplitude - s.sc.jogThreshold) }

section

variable {s : State} {f : CompletedFrame}

theorem sweepFrame_still (h : s.sc.state = .idle ∨ s.sc.state = .armed) : s.sweepFrame f = s := by
  rcases h with h | h <;> simp only [State.sweepFrame, h]

theorem sweepFrame_waiting (h : s.sc.state = .awaitHead)
    (q : qualifies s.sc s.tsm.spindle f.head f.reduction f.follow = false) : s.sweepFrame f = s := by
  simp only [State.sweepFrame, h, q, Bool.false_eq_true, if_false]

theorem sweepFrame_measuring (h : s.sc.state = .measuring)
    (q : qualifies s.sc s.tsm.spindle f.head f.reduction f.follow = false) : s.sweepFrame f =
      if f.head = s.sc.currentHead then s.withSc { s.sc with acc := addMissed s.sc.acc f.missed f.slip } else s := by
  simp only [State.sweepFrame, h, q, Bool.false_eq_true, if_false]

/-- A qualifying frame enters the accumulator, and closes the cell at the quota (R85, R86). -/
theorem sweepFrame_qualified (q : qualifies s.sc s.tsm.spindle f.head f.reduction f.follow = true) : s.sweepFrame f =
    if (openAccumulator s.sc).n + 1 = s.sc.quota then (gatheredInto s f).closeCell .quota else gatheredInto s f := by
  obtain ⟨opened, -, head, -⟩ := qualifies_iff.mp q
  rcases opened with h | h
  · have fresh : openAccumulator s.sc = Accumulator.clear := if_neg (by rw [h]; decide)
    rw [gatheredInto, fresh]
    simp only [State.sweepFrame, h, q, if_true]
    rfl
  · have kept : openAccumulator s.sc = s.sc.acc := if_pos h
    rw [gatheredInto, kept, ← h]
    simp only [State.sweepFrame, h, q, if_true, if_pos head]
    rfl

end

/-! ## The state after a close (R91, R94) -/

theorem tryEnterResult_state (s : State) : s.tryEnterResult.sc.state = s.sc.state := by
  cases holder : s.sc.holder with
  | none => simp only [State.tryEnterResult, holder]
  | some r =>
    rw [State.tryEnterResult_some holder]
    split
    · rw [enterResult_eq]
      rfl
    · rfl

theorem closeCell_state (s : State) (cause : CloseCause) : (s.closeCell cause).sc.state = advanceState s.sc := by
  rw [State.closeCell, tryEnterResult_state, State.advance_state]
  rfl

/-! ## The answer for word 6 (R94) -/

theorem openAccumulator_n (sc : SweepController) : (openAccumulator sc).n = if sc.state = .measuring then sc.acc.n else 0 := by
  rw [openAccumulator]
  split <;> rfl

theorem answerSweep_qualified {s : State} {f : CompletedFrame}
    (q : qualifies s.sc s.tsm.spindle f.head f.reduction f.follow = true) :
    answerSweep s.sc s.tsm.spindle f.head f.reduction f.follow = (true, (openAccumulator s.sc).n + 1,
      if (openAccumulator s.sc).n + 1 = s.sc.quota then advanceState s.sc else .measuring) := by
  rw [openAccumulator_n]
  exact if_pos q

theorem answerSweep_refused {s : State} {f : CompletedFrame}
    (q : qualifies s.sc s.tsm.spindle f.head f.reduction f.follow = false) :
    answerSweep s.sc s.tsm.spindle f.head f.reduction f.follow =
      (false, if s.sc.state = .measuring then s.sc.acc.n else 0, s.sc.state) :=
  if_neg (ne_true_of_eq_false q)

/-- A frame that does not qualify leaves the sweep state. -/
theorem sweepFrame_refused_state {s : State} {f : CompletedFrame}
    (q : qualifies s.sc s.tsm.spindle f.head f.reduction f.follow = false) : (s.sweepFrame f).sc.state = s.sc.state := by
  cases h : s.sc.state with
  | idle => rw [sweepFrame_still (Or.inl h), h]
  | armed => rw [sweepFrame_still (Or.inr h), h]
  | awaitHead => rw [sweepFrame_waiting h q, h]
  | measuring =>
    rw [sweepFrame_measuring h q]
    split
    · exact h
    · exact h

/-- The answer for word 6 is the state the frame leaves (R94). -/
theorem answerSweep_state (s : State) (f : CompletedFrame) :
    (answerSweep s.sc s.tsm.spindle f.head f.reduction f.follow).2.2 = (s.sweepFrame f).sc.state := by
  cases q : qualifies s.sc s.tsm.spindle f.head f.reduction f.follow with
  | true =>
    rw [answerSweep_qualified q, sweepFrame_qualified q]
    by_cases full : (openAccumulator s.sc).n + 1 = s.sc.quota
    · rw [if_pos full, if_pos full, closeCell_state]
      rfl
    · rw [if_neg full, if_neg full]
      rfl
  | false => rw [answerSweep_refused q, sweepFrame_refused_state q]

/-- Settles O53: by whether the frame qualifies, and by the sweep state when it does not. -/
theorem qualifyingFramesAccumulate : Obligations.QualifyingFramesAccumulate := by
  intro s f q p weight start missed slips gathered answer
  have gathers : gathered = gatheredInto s f := by
    rw [gatheredInto, accumulate_addMissed]
    rfl
  have refuses (h : ¬ q) : qualifies s.sc s.tsm.spindle f.head f.reduction f.follow = false :=
    Bool.eq_false_iff.mpr fun other => h (qualifies_iff.mp other)
  have accepted (h : q) : answer = _ := answerSweep_qualified (qualifies_iff.mpr h)
  have refused (h : ¬ q) : answer = _ := answerSweep_refused (refuses h)
  refine ⟨sweepFrame_still, fun h no => sweepFrame_waiting h (refuses no), fun h no other => ?_, fun h no same => ?_,
    fun yes short => ?_, fun yes full => ?_, ⟨fun h => ?_, fun yes => ?_⟩, fun yes => ?_, fun no => ?_, answerSweep_state s f⟩
  · rw [sweepFrame_measuring h (refuses no), if_neg other]
  · rw [sweepFrame_measuring h (refuses no), if_pos same]
    have opened : start = s.sc.acc := if_pos h
    have one : f.slip.toNat = if f.slip then 1 else 0 := by cases f.slip <;> rfl
    simp only [missed, slips, opened, ← one]
    rfl
  · rw [gathers, sweepFrame_qualified (qualifies_iff.mpr yes)]
    exact if_neg short
  · rw [gathers, sweepFrame_qualified (qualifies_iff.mpr yes)]
    exact if_pos full
  · by_contra no
    rw [refused no] at h
    exact Bool.noConfusion h
  · rw [accepted yes]
  · rw [accepted yes]
    rfl
  · rw [refused no]

end Sys2Proof.Proofs
end

section
/-! The close of a cell: its figures (sections 6.2, 6.3), the cell and the record (sections 4.2, 6.4), and the advance (section 5.6). -/

namespace Sys2Proof.Proofs

open Sys2Proof.Machine

/-! ## The figures of a close (R101 to R106) -/

section

variable {sc : SweepController}

theorem closeFigures_centre (kind : sc.kind = .centre) : closeFigures sc .quota =
    { outcome := if (centreMean sc.acc).natAbs ≤ sc.limit ∧ centreSpread sc.acc ≤ sc.spreadLimit then .accepted else .rejected
      value := some (centreMean sc.acc), spread := centreSpread sc.acc, extremes := none } := by
  simp only [closeFigures, accFigures, quotaOutcome, kind]

theorem closeFigures_noSignal (kind : sc.kind = .jog) (weightless : sc.acc.sumW = 0) : closeFigures sc .quota =
    { outcome := .noSignal, value := none, spread := 0, extremes := none } := by
  simp only [closeFigures, accFigures, quotaOutcome, kind, if_pos weightless]

theorem closeFigures_jog {lo hi : Int} (kind : sc.kind = .jog) (weighted : 0 < sc.acc.sumW) (least : sc.acc.least = some lo)
    (greatest : sc.acc.greatest = some hi) : closeFigures sc .quota =
      { outcome := if jogCentroid sc.acc ≤ lo ∨ hi ≤ jogCentroid sc.acc then .edge
          else if sc.limit < (jogCentroid sc.acc).natAbs then .rejected else .accepted
        value := some (jogCentroid sc.acc), spread := 0, extremes := some (lo, hi) } := by
  have extremes : accExtremes sc.acc = some (lo, hi) := by simp only [accExtremes, least, greatest]
  have edge : atEdge (jogCentroid sc.acc) (some (lo, hi)) = true ↔ jogCentroid sc.acc ≤ lo ∨ hi ≤ jogCentroid sc.acc := by
    simp only [atEdge, Bool.or_eq_true, decide_eq_true_eq]
  simp only [closeFigures, accFigures, quotaOutcome, kind, if_neg (Nat.ne_of_gt weighted), extremes, edge]

/-- A close at the deadline carries the figures of the quota, under the outcome SHORT (R105). -/
theorem closeFigures_short (sc : SweepController) :
    closeFigures sc .short = { closeFigures sc .quota with outcome := .short } := by
  cases kind : sc.kind with
  | centre => simp only [closeFigures, accFigures, kind]
  | jog =>
    simp only [closeFigures, accFigures, kind]
    split <;> rfl

/-- The variance of R101 is that of the integers. -/
theorem centreVariance_cast {a : Accumulator} (h : a.sumP * a.sumP ≤ (a.n : Int) * a.sumP2) :
    (centreVariance a : Int) = ((a.n : Int) * a.sumP2 - a.sumP * a.sumP) / ((a.n : Int) * a.n) := by
  rw [centreVariance, Int.natCast_ediv, Int.toNat_of_nonneg (Int.sub_nonneg.mpr h), Nat.cast_mul]

/-- What a close writes into the cell (R65, R66). -/
theorem closedCell_eq (sc : SweepController) (x : Figures) (c : CellRecord) : closedCell sc x c =
    { centre := if x.outcome = .accepted ∧ sc.kind = .centre then x.value else c.centre
      jog := if x.outcome = .accepted ∧ sc.kind = .jog then x.value else c.jog
      outcome := x.outcome, kind := sc.kind, unread := c.unread, passes := sc.passNumber } := by
  rw [closedCell]
  cases outcome : x.outcome with
  | accepted => cases kind : sc.kind <;> simp
  | _ => simp

end

/-! ## The advance (R79, R82, R91) -/

/-- The Sweep Controller and the Report Arbiter after the advance: to the next head, or at the last one to IDLE, to the next pass, or
to ARMED. -/
def advancedTo (heads : Nat) (sc : SweepController) (ra : ReportArbiter) : SweepController × ReportArbiter :=
  if sc.currentHead ≠ sc.lastHead then
    ({ sc with state := .awaitHead, currentHead := nextHead heads sc.currentHead, revolutions := 0 },
      ra.raise .headRequest { place := some (nextHead heads sc.currentHead, sc.zone), a := 0, b := 0 })
  else if sc.passes = .onePass then
    ({ sc with state := .idle, passesCompleted := min 65535 (sc.passesCompleted + 1) },
      ra.raise .sweepDone { place := none, a := 1, b := min 65535 (sc.passesCompleted + 1) })
  else if sc.trigger = .now then
    ({ sc with
        state := .awaitHead, currentHead := sc.firstHead, revolutions := 0
        passesCompleted := min 65535 (sc.passesCompleted + 1), passNumber := min 65535 (sc.passNumber + 1) },
      ra.raise .headRequest { place := some (sc.firstHead, sc.zone), a := 0, b := 0 })
  else ({ sc with
    state := .armed, currentHead := sc.firstHead, passesCompleted := min 65535 (sc.passesCompleted + 1) }, ra)

theorem advance_eq (s : State) :
    s.advance = { s with sc := (advancedTo s.fr.heads s.sc s.ra).1, ra := (advancedTo s.fr.heads s.sc s.ra).2 } := by
  rw [advancedTo]
  by_cases last : s.sc.currentHead = s.sc.lastHead
  · rw [if_neg (not_not.mpr last)]
    by_cases passes : s.sc.passes = .onePass
    · rw [if_pos passes, State.advance_done last passes]
    · have continuous : s.sc.passes = .continuous := by
        cases h : s.sc.passes with
        | onePass => exact absurd h passes
        | continuous => rfl
      rw [if_neg passes]
      by_cases now : s.sc.trigger = .now
      · rw [if_pos now, State.advance_again last continuous now]
      · rw [if_neg now, State.advance_armed last continuous now]
  · rw [if_pos last, State.advance_next last]

/-- The advance does not look at the result holder. -/
theorem advancedTo_holder (heads : Nat) (sc : SweepController) (ra : ReportArbiter) (r : Option ResultRecord) :
    advancedTo heads { sc with holder := r } ra =
      ({ (advancedTo heads sc ra).1 with holder := r }, (advancedTo heads sc ra).2) := by
  simp only [advancedTo]
  split
  · rfl
  · split
    · rfl
    · split <;> rfl

/-! ## The close of a cell (R90, R107) -/

section

variable (s : State) (cause : CloseCause)

/-- The cell as the close of the current head's cell writes it. -/
def writtenCell : CellRecord :=
  closedCell s.sc (closeFigures s.sc cause) (s.table.cell (cellIndex s.sc.currentHead s.sc.zone))

/-- The result record of the close of the current head's cell, from the sources of R107. -/
def closeRecord : ResultRecord :=
  { head := s.sc.currentHead, zone := s.sc.zone, kind := s.sc.kind, outcome := (closeFigures s.sc cause).outcome
    n := if cause = .noHead then 0 else s.sc.acc.n
    value := (closeFigures s.sc cause).value, spread := (closeFigures s.sc cause).spread
    extremes := (closeFigures s.sc cause).extremes
    missed := if cause = .noHead then 0 else s.sc.acc.missed
    slips := if cause = .noHead then 0 else s.sc.acc.slips
    history := (s.fm.record s.sc.currentHead).history, passNumber := s.sc.passNumber
    addr := s.tp.resultArea.getD 0 + 32 * (32 * s.sc.currentHead.val + s.sc.zone.val) }

theorem buildResult_eq : buildResult (s.withTable (s.table.setCell (cellIndex s.sc.currentHead s.sc.zone) (writtenCell s cause)))
    cause (closeFigures s.sc cause) (writtenCell s cause) = closeRecord s cause := by
  rw [writtenCell, closedCell_eq]
  cases cause <;> rfl

/-- The state after a close whose record waits in the result holder: the cell written and the advance made. -/
def closedState : State :=
  { s with
    table := s.table.setCell (cellIndex s.sc.currentHead s.sc.zone) (writtenCell s cause)
    sc := { (advancedTo s.fr.heads s.sc s.ra).1 with holder := some (closeRecord s cause) }
    ra := (advancedTo s.fr.heads s.sc s.ra).2 }

/-- A close writes the cell, advances, and leaves its record to enter the insertion queue. -/
theorem closeCell_eq : s.closeCell cause =
    if s.tp.queue.length < 16 ∧ s.dd.holder = none then (closedState s cause).enterResult (closeRecord s cause)
    else closedState s cause := by
  have held : s.closeCell cause = (closedState s cause).tryEnterResult := by
    simp only [State.closeCell]
    rw [advance_eq]
    have built := buildResult_eq s cause
    rw [writtenCell] at built
    rw [built]
    have moved := advancedTo_holder s.fr.heads s.sc s.ra (some (closeRecord s cause))
    exact congrArg (fun m : SweepController × ReportArbiter => State.tryEnterResult { s with
      table := s.table.setCell (cellIndex s.sc.currentHead s.sc.zone) (writtenCell s cause), sc := m.1, ra := m.2 }) moved
  rw [held, State.tryEnterResult_some (r := closeRecord s cause) rfl]
  rfl

end

/-- A close with the queue full or an outcome record waiting (R90, R161). -/
theorem closeCell_waits {s : State} (cause : CloseCause) (h : 16 ≤ s.tp.queue.length ∨ s.dd.holder ≠ none) :
    s.closeCell cause = closedState s cause := by
  rw [closeCell_eq, if_neg]
  rintro ⟨room, outcome⟩
  exact h.elim (fun full => absurd room (Nat.not_lt_of_le full)) fun held => held outcome

/-- A close whose record enters the insertion queue at once (R108). -/
theorem closeCell_enters {s : State} (cause : CloseCause) (room : s.tp.queue.length < 16) (outcome : s.dd.holder = none) :
    s.closeCell cause = (closedState s cause).enterResult (closeRecord s cause) := by
  rw [closeCell_eq, if_pos ⟨room, outcome⟩]

/-- The cells after a close whose record has entered: the cell's own unread flag is set. -/
theorem setUnread_setCell (t : AlignmentTable) (c x : Fin 512) (r : CellRecord) :
    ((t.setCell c r).setUnread c true).cell x = if x = c then { r with unread := true } else t.cell x := by
  rw [AlignmentTable.setUnread_cell, AlignmentTable.setCell_cell]
  by_cases h : x = c
  · rw [if_pos h, if_pos h, if_pos h]
  · rw [if_neg h, if_neg h, if_neg h]

/-- The state, but for the table, once the record of a close has entered, by the unread flag of its cell and the transactions with a
notice to come. -/
def enteredState (s : State) (cause : CloseCause) (unread : Bool) (outstanding : List Outstanding) : State :=
  { s with
    tp := { s.tp with
      queue := s.tp.queue ++ [{ addr := (closeRecord s cause).addr, words := resultWords (closeRecord s cause) unread
                                kind := .result (cellIndex s.sc.currentHead s.sc.zone) }]
      outstanding := outstanding }
    sc := { (advancedTo s.fr.heads s.sc s.ra).1 with holder := none }
    ra := (if unread then
        (advancedTo s.fr.heads s.sc s.ra).2.raise .resultOverrun { place := some (s.sc.currentHead, s.sc.zone), a := 0, b := 0 }
      else (advancedTo s.fr.heads s.sc s.ra).2).raise .cellClosed
        { place := some (s.sc.currentHead, s.sc.zone), a := (closeFigures s.sc cause).outcome.code, b := 0 } }

/-- The close keeps the unread flag of the cell, so the overrun flag is that of the table before it (R67). -/
theorem enterResult_closed (s : State) (cause : CloseCause) :
    { (closedState s cause).enterResult (closeRecord s cause) with table := s.table } =
      enteredState s cause (s.table.cell (cellIndex s.sc.currentHead s.sc.zone)).unread
        (s.tp.outstanding.map (spoilNotice (.result (cellIndex s.sc.currentHead s.sc.zone)))) := by
  have flag : ((closedState s cause).table.cell (cellIndex s.sc.currentHead s.sc.zone)).unread =
      (s.table.cell (cellIndex s.sc.currentHead s.sc.zone)).unread := by
    refine (congrArg CellRecord.unread ((AlignmentTable.setCell_cell ..).trans (if_pos rfl))).trans ?_
    rw [writtenCell, closedCell_eq]
  rw [enterResult_eq, ← flag]
  rfl

/-- Settles O54: the figures by the kind of sweep, and on the whole state the cell, the advance and the record's entry. -/
theorem closeIsEvaluatedAndRecorded : Obligations.CloseIsEvaluatedAndRecorded := by
  refine ⟨fun sc => ⟨fun kind some_frame squares => ?_, closeFigures_noSignal, fun lo hi kind weighted least greatest => ?_,
    closeFigures_short sc, rfl, closedCell_eq sc⟩, ?_⟩
  · exact ⟨centreMean sc.acc, centreVariance sc.acc, centreSpread sc.acc, roundDiv_isRound _ _ some_frame,
      centreVariance_cast squares, (isqrt_spec _).1, (isqrt_spec _).2, closeFigures_centre kind⟩
  · exact ⟨jogCentroid sc.acc, roundDiv_isRound _ _ weighted, closeFigures_jog kind weighted least greatest⟩
  · intro s cause t x head place c cell r completed next moved
    have record : r = closeRecord s cause := rfl
    have written : cell = writtenCell s cause := rfl
    have advanced : moved = advancedTo s.fr.heads s.sc s.ra := rfl
    refine ⟨fun waits => ?_, fun room outcome => ?_⟩
    · have whole : t = closedState s cause := closeCell_waits cause waits
      rw [whole, record, written, advanced]
      exact ⟨rfl, fun i => AlignmentTable.setCell_cell ..⟩
    · have whole : t = (closedState s cause).enterResult r := closeCell_enters cause room outcome
      intro unread
      rw [whole]
      refine ⟨(enterResult_closed s cause).trans ?_, fun i => ?_⟩
      · have notices : s.tp.outstanding.map (spoilNotice (.result c)) = _ := List.map_congr_left fun y _ => spoilNotice_result c y
        exact congrArg (enteredState s cause unread) notices
      · rw [State.enterResult_table]
        exact setUnread_setCell ..

end Sys2Proof.Proofs
end

section
/-! Reads of the bench: their arrival with the notices to come (sections 4.3, 8.5, 10.6), and their answer (sections 7.1, 7.5,
10.7). -/

namespace Sys2Proof.Proofs

open Sys2Proof.Machine

/-! ## The commands of a read -/

/-- The three commands that carry what the bus does with a read do the same: which window the read lies in is decided by its address. -/
theorem exec_read {s : State} (high : s.resetLow = false) (x : BusRead) {c : Instr}
    (hc : c ∈ [Instr.resultReadNotice x, .consumptionNotice x, .imageRead x]) : exec c s = .next (s.busRead x) := by
  have run : (Host.Outcome.next (whenRunning s fun s => s.busRead x) : Host.Outcome State Fault Refusal) = .next (s.busRead x) :=
    congrArg Host.Outcome.next (whenRunning_high s (fun s => s.busRead x) high)
  simp only [List.mem_cons, List.not_mem_nil, or_false] at hc
  rcases hc with rfl | rfl | rfl
  · exact run
  · exact run
  · exact run

/-! ## The arrival of a read (R156, R163) -/

theorem advanceRead_held {s : State} {r : ReadBurst} (held : readHeld s.tp.queue r = true) (rest : List Upstream) :
    advanceRead r rest s = s.withTp { s.tp with upstream := .read r :: rest } :=
  if_pos held

theorem advanceRead_free {s : State} {r : ReadBurst} (free : readHeld s.tp.queue r = false) (rest : List Upstream) :
    advanceRead r rest s = { s with
      tp := { s.tp with
        upstream := rest
        outstanding := s.tp.outstanding ++ [.read r (asksResultArea s.tp r) (noticeCells s.tp r) (noticeSlots s.tp r)] }
      ports := { s.ports with down := s.ports.down ++ [.read r] } } :=
  if_neg (ne_true_of_eq_false free)

/-- A read that arrives while nothing waits goes on at once. -/
theorem arrive_read {s : State} (port : s.tp.upstream = []) (r : ReadBurst) :
    s.arrive (.read r) = advanceRead r [] (s.withTp { s.tp with upstream := [.read r] }) := by
  rw [State.arrive, port]
  rfl

theorem readHeld_iff {q : List QueueEntry} {r : ReadBurst} :
    readHeld q r = true ↔ ∃ e ∈ q, ∃ x ∈ readWords r, Touches e x := by
  simp only [readHeld, List.any_eq_true, recordTouches_iff]

/-! ## The bytes a read asks for (R68, R140) -/

section

variable {r : ReadBurst} (wf : r.wf = true)
include wf

/-- The words of a read lie at multiples of 4. -/
theorem readWords_aligned {x : WordWrite} (hx : x ∈ readWords r) : x.addr % 4 = 0 := by
  have aligned := (burstOk_spec wf).2.2.1
  rw [readWords, firstBeat_of_wf wf] at hx
  obtain ⟨i, hi, hx⟩ := laneWords_mem.mp hx
  have := beat_addr hx
  omega

/-- The read asks for a byte between two aligned addresses exactly when it asks for a word between them. -/
theorem readWords_range {a n : Nat} (start : a % 4 = 0) (size : n % 4 = 0) :
    (∃ x ∈ readWords r, x.enables ≠ 0 ∧ a ≤ x.addr ∧ x.addr < a + n) ↔
      ∃ i j : Nat, j < 8 ∧ (r.lanes.getD i 0).getLsbD j = true ∧ a ≤ r.addr.toNat + 8 * i + j ∧
        r.addr.toNat + 8 * i + j < a + n := by
  constructor
  · rintro ⟨x, hx, written, low, high⟩
    have aligned := readWords_aligned wf hx
    obtain ⟨i, j, hj, lane, h1, h2⟩ := (readWords_byte wf x.addr aligned).mp ⟨x, hx, rfl, written⟩
    exact ⟨i, j, hj, lane, by omega, by omega⟩
  · rintro ⟨i, j, hj, lane, low, high⟩
    obtain ⟨x, hx, at_, written⟩ := (readWords_byte wf ((r.addr.toNat + 8 * i + j) / 4 * 4) (by omega)).mpr
      ⟨i, j, hj, lane, by omega, by omega⟩
    exact ⟨x, hx, written, by omega, by omega⟩

/-- A read asks for a byte of the result area. -/
theorem asksResultArea_iff {tp : TransferPath} {area : Nat} (placed : tp.resultArea = some area) (aligned : area % 16384 = 0) :
    asksResultArea tp r = true ↔ ∃ i j : Nat, j < 8 ∧ (r.lanes.getD i 0).getLsbD j = true ∧
      area ≤ r.addr.toNat + 8 * i + j ∧ r.addr.toNat + 8 * i + j < area + 16384 := by
  rw [← readWords_range wf (by omega) (by omega)]
  simp only [asksResultArea, placed, List.any_eq_true, Bool.and_eq_true, decide_eq_true_eq, Bool.not_eq_true', WordWrite.unwritten,
    beq_eq_false_iff_ne, Config.resultBytes, and_assoc]
  exact Iff.rfl

/-- A read gives a notice for a cell exactly when it asks for a byte of word 7 of the cell's record. -/
theorem mem_noticeCells {tp : TransferPath} {area : Nat} (placed : tp.resultArea = some area) (aligned : area % 16384 = 0)
    (c : Fin 512) : c ∈ noticeCells tp r ↔ ∃ i j : Nat, j < 8 ∧ (r.lanes.getD i 0).getLsbD j = true ∧
      area + 32 * c.val + 28 ≤ r.addr.toNat + 8 * i + j ∧ r.addr.toNat + 8 * i + j < area + 32 * c.val + 32 := by
  have word7 (a : Nat) : resultWord7 tp a = some c ↔ a = area + 32 * c.val + 28 := by
    have small := c.isLt
    simp only [resultWord7, placed]
    split
    · split
      · rw [Option.some.injEq, Fin.ext_iff]
        dsimp only
        omega
      · exact iff_of_false (Option.some_ne_none c).symm (by omega)
    · exact iff_of_false (Option.some_ne_none c).symm (by omega)
  refine Iff.trans ?_ (readWords_byte wf (area + 32 * c.val + 28) (by omega))
  rw [noticeCells, List.mem_filterMap]
  simp only [Option.ite_none_left_eq_some, word7, WordWrite.unwritten, beq_iff_eq]
  exact exists_congr fun x => and_congr_right fun _ => and_comm

/-- A read gives a notice for a report slot exactly when it asks for a byte of word 7 of the slot. -/
theorem mem_noticeSlots {tp : TransferPath} {b : Nat} (base : tp.controlBase = some b) (aligned : b % 4 = 0) (n : Fin 64) :
    n ∈ noticeSlots tp r ↔ ∃ i j : Nat, j < 8 ∧ (r.lanes.getD i 0).getLsbD j = true ∧
      b + 0x800 + 32 * n.val + 28 ≤ r.addr.toNat + 8 * i + j ∧ r.addr.toNat + 8 * i + j < b + 0x800 + 32 * n.val + 32 := by
  have word7 (a : Nat) : slotWord7 tp a = some n ↔ a = b + 0x800 + 32 * n.val + 28 := by
    have small := n.isLt
    simp only [slotWord7, base]
    split
    · split
      · rw [Option.some.injEq, Fin.ext_iff]
        dsimp only
        omega
      · exact iff_of_false (Option.some_ne_none n).symm (by omega)
    · exact iff_of_false (Option.some_ne_none n).symm (by omega)
  refine Iff.trans ?_ (readWords_byte wf (b + 0x800 + 32 * n.val + 28) (by omega))
  rw [noticeSlots, List.mem_filterMap]
  simp only [Option.ite_none_left_eq_some, word7, WordWrite.unwritten, beq_iff_eq]
  exact exists_congr fun x => and_congr_right fun _ => and_comm

end

/-- Without a result area a read is of none and gives no notice for a cell. -/
theorem noticeCells_unplaced {tp : TransferPath} (h : tp.resultArea = none) (r : ReadBurst) :
    asksResultArea tp r = false ∧ noticeCells tp r = [] := by
  constructor
  · simp only [asksResultArea, h]
  · simp only [noticeCells, resultWord7, h, ite_self, List.filterMap_none]

/-- Settles O41: the read passes with the notices of the words it asks for, each told by its bytes. -/
theorem readArrivalKeepsItsNotices : Obligations.ReadArrivalKeepsItsNotices := by
  intro b s r free wf c hc
  obtain ⟨running, port⟩ := free
  have arrives : exec c s = .next (advanceRead r [] (s.withTp { s.tp with upstream := [.read r] })) := by
    rw [← arrive_read port]
    exact exec_read running.1 (.arrive r) hc
  have base4 : b % 4 = 0 := by
    have := base_cases running
    omega
  have portless : ({ s.tp with upstream := [] } : TransferPath) = s.tp := by rw [← port]
  refine ⟨fun held => ?_, fun passes => ⟨asksResultArea s.tp r, noticeCells s.tp r, noticeSlots s.tp r, ?_,
    fun unplaced => noticeCells_unplaced unplaced r,
    fun area placed aligned => ⟨asksResultArea_iff wf placed aligned, mem_noticeCells wf placed aligned⟩,
    mem_noticeSlots wf running.2.1 base4⟩⟩
  · rw [arrives, advanceRead_held (s := s.withTp { s.tp with upstream := [.read r] }) held]
    rfl
  · rw [arrives, advanceRead_free (s := s.withTp { s.tp with upstream := [.read r] }) passes]
    exact congrArg (fun tp : TransferPath => (Host.Outcome.next { s with
      tp := { tp with outstanding := s.tp.outstanding ++ [Outstanding.read r (asksResultArea s.tp r) (noticeCells s.tp r) (noticeSlots s.tp r)] }
      ports := { s.ports with down := s.ports.down ++ [DownEvent.read r] } } : Host.Outcome State Fault Refusal)) portless

/-! ## The answer of a read (R68, R125, R140) -/

theorem countMarks_finRange (marks : Vector Bool 64) : countMarks marks = (List.finRange 64).countP fun n => marks[n] := by
  have list : marks.toList = (List.finRange 64).map fun n => marks[n] := by
    apply List.ext_getElem
    · simp
    · intro i h1 h2
      simp
  rw [countMarks, list, List.countP_map]
  rfl

/-- The cells after the read notices of a read: those named are not unread. -/
theorem clearUnreadCells_cell (cells : List (Fin 512)) (t : AlignmentTable) (x : Fin 512) :
    (clearUnreadCells t cells).cell x = if x ∈ cells then { t.cell x with unread := false } else t.cell x := by
  induction cells generalizing t with
  | nil => rw [if_neg (List.not_mem_nil)]; rfl
  | cons c cells ih =>
    change (clearUnreadCells (t.setUnread c false) cells).cell x = _
    rw [ih, AlignmentTable.setUnread_cell]
    simp only [List.mem_cons]
    by_cases named : x = c
    · rw [if_pos named, if_pos (Or.inl named)]
      exact ite_self _
    · rw [if_neg named]
      exact if_congr (by simp [named]) rfl rfl

section

variable (slots : List (Fin 64)) (ra : ReportArbiter)

/-- The marks after the consumption notices of a read: those named are clear. -/
theorem consume_marks (n : Fin 64) : (ra.consume slots).marks[n] = (ra.marks[n] && !decide (n ∈ slots)) := by
  induction slots generalizing ra with
  | nil => simp [ReportArbiter.consume]
  | cons m slots ih =>
    change ((ra.free m).consume slots).marks[n] = _
    rw [ih, ReportArbiter.free_marks, Bool.and_assoc]
    simp

theorem consume_level (h : ra.Level) : (ra.consume slots).Level := by
  induction slots generalizing ra with
  | nil => exact h
  | cons m slots ih => exact ih _ (ReportArbiter.free_level h m)

/-- Consumption notices change the marks, the occupancy and ATTN alone. -/
theorem consume_frame : { ra.consume slots with marks := ra.marks, occupancy := ra.occupancy, attn := ra.attn } = ra := by
  induction slots generalizing ra with
  | nil => rfl
  | cons m slots ih =>
    have freed : ra.free m = { ra with marks := _, occupancy := _, attn := _ } := ReportArbiter.free_frame ra m
    exact (congrArg (fun x : ReportArbiter => { x with marks := ra.marks, occupancy := ra.occupancy, attn := ra.attn })
      (ih (ra.free m))).trans
      (congrArg (fun x : ReportArbiter => { x with marks := ra.marks, occupancy := ra.occupancy, attn := ra.attn }) freed)

end

/-- Data goes upstream beat by beat, each beat by its address. -/
theorem returnBeats_get (f : Nat → BitVec 64 → BitVec 64) (lanes : List (BitVec 8)) (data : List (BitVec 64)) (a : Nat)
    (h : data.length = lanes.length) : (returnBeats f a lanes data).length = lanes.length ∧
      ∀ i, i < lanes.length →
        (returnBeats f a lanes data)[i]? = some { data := f (a + 8 * i) (data.getD i 0), lanes := lanes.getD i 0 } := by
  induction lanes generalizing data a with
  | nil => exact ⟨rfl, fun i hi => absurd hi (Nat.not_lt_zero i)⟩
  | cons l lanes ih =>
    cases data with
    | nil => exact absurd h (by simp)
    | cons d data =>
      obtain ⟨length, beats⟩ := ih data (a + 8) (Nat.succ.inj h)
      refine ⟨congrArg Nat.succ length, fun i hi => ?_⟩
      cases i with
      | zero => rfl
      | succ i =>
        have next : a + 8 * (i + 1) = a + 8 + 8 * i := by omega
        rw [next]
        exact beats i (Nat.lt_of_succ_lt_succ hi)

theorem returnBeats_zip (lanes : List (BitVec 8)) (data : List (BitVec 64)) (a : Nat) :
    returnBeats (fun _ d => d) a lanes data = List.zipWith (fun d l => { data := d, lanes := l }) data lanes := by
  induction lanes generalizing data a with
  | nil => cases data <;> rfl
  | cons l lanes ih =>
    cases data with
    | nil => rfl
    | cons d data => exact congrArg (_ :: ·) (ih data (a + 8))

/-- Settles O42: the notices and the data of a read answered OKAY, and the data alone of one answered ERROR. -/
theorem readAnswerGivesItsNotices : Obligations.ReadAnswerGivesItsNotices := by
  refine ⟨countMarks_finRange, fun s k r ofResult cells slots data high sent length occupancy attn c hc => ?_,
    fun s k r ofResult cells slots data high sent length c hc => ?_⟩
  · have answered : exec c s = .next ((s.dropOutstanding k).readOkay r cells slots data) := by
      rw [exec_read high (.answer k .okay data) hc]
      simp only [State.busRead, State.answerRead, sent]
    have level := consume_level slots s.ra ⟨occupancy, attn⟩
    obtain ⟨beats, each⟩ := returnBeats_get (substituteBeat s.ip) r.lanes data (firstBeat r.addr) length
    exact ⟨_, returnBeats (substituteBeat s.ip) (firstBeat r.addr) r.lanes data, answered, rfl, rfl,
      clearUnreadCells_cell cells s.table, consume_marks slots s.ra, level.1, level.2, consume_frame slots s.ra, rfl, beats, each⟩
  · have answered : exec c s = .next ((s.dropOutstanding k).readError r ofResult data) := by
      rw [exec_read high (.answer k .error data) hc]
      simp only [State.busRead, State.answerRead, sent]
    refine ⟨errorBeats ofResult r data, answered, fun own => ?_, fun other => ?_⟩
    · rw [errorBeats, own]
      rfl
    · rw [errorBeats, other]
      exact returnBeats_zip r.lanes data (firstBeat r.addr)

end Sys2Proof.Proofs
end

section
/-! Writes of the bench: words that no block watches, writes that wait for others, and what is left of a write when it goes on
(sections 10.1, 10.6). -/

namespace Sys2Proof.Proofs

open Sys2Proof.Machine

/-! ## The commands of a write -/

/-- The four commands that carry a write that arrives do the same: what each word does is decided by its address. -/
theorem exec_write {s : State} (high : s.resetLow = false) (w : WriteBurst) {c : Instr}
    (hc : c ∈ [Instr.captureWrite w, .mailboxWrite w, .imageWrite w, .upstreamWrite (.arrive w)]) :
    exec c s = .next (s.arrive (.write (newWrite w))) := by
  have run : (Host.Outcome.next (whenRunning s fun s => s.arrive (.write (newWrite w))) : Host.Outcome State Fault Refusal) =
      .next (s.arrive (.write (newWrite w))) :=
    congrArg Host.Outcome.next (whenRunning_high s (fun s => s.arrive (.write (newWrite w))) high)
  simp only [List.mem_cons, List.not_mem_nil, or_false] at hc
  rcases hc with rfl | rfl | rfl | rfl
  · exact run
  · exact run
  · exact run
  · exact run

/-- What arrives behind another transaction waits behind it. -/
theorem arrive_behind {s : State} (port : s.tp.upstream ≠ []) (x : Upstream) :
    s.arrive x = { s with tp := { s.tp with upstream := s.tp.upstream ++ [x] } } := by
  unfold State.arrive
  split
  · next empty => exact absurd empty port
  · rfl

/-! ## A write whose words are taken (R156, R164) -/

theorem settleWrite_passes {p : WriteProgress} (stall : p.stall = none) (hold : p.hold = 0) (rest : List Upstream) (s : State) :
    settleWrite p rest s = { s with
      tp := { s.tp with upstream := rest, outstanding := s.tp.outstanding ++ [.write p.addr] }
      ports := { s.ports with down := s.ports.down ++ [.write p.addr p.taken] } } :=
  if_pos (by rw [stall, hold]; rfl)

theorem settleWrite_stays {p : WriteProgress} (h : p.stall ≠ none ∨ p.hold ≠ 0) (rest : List Upstream) (s : State) :
    settleWrite p rest s = { s with tp := { s.tp with upstream := .write p :: rest } } := by
  refine if_neg fun passes => ?_
  rw [Bool.and_eq_true, Option.isNone_iff_eq_none, decide_eq_true_eq] at passes
  exact h.elim (fun stalled => stalled passes.1) fun held => held passes.2

/-- A write that arrived at a free port, all its words taken, no slot run left. -/
theorem settleWrite_arrived {t : State} (port : t.tp.upstream = []) (a : Nat) (ws : List WordWrite) (hold : Nat) :
    settleWrite { addr := a, taken := ws, todo := [], run := none, hold := hold, stall := none } [] t =
      passedOrHeld hold a ws t := by
  rw [passedOrHeld]
  by_cases free : hold = 0
  · rw [if_pos free, settleWrite_passes rfl free, passed, ← port]
  · rw [if_neg free, settleWrite_stays (Or.inr free)]

/-- Words that are taken one after another without a slot run pass as they are, and hold the write for the records they overlap. -/
theorem takeWords_runless (f : State → WordWrite → State) (Q : WordWrite → Prop) (P : State → Prop)
    (step : ∀ s w, P s → Q w → P (f s w) ∧ (f s w).tp.queue = s.tp.queue ∧ takeWord s w none = passWord (f s w) w none)
    (ws : List WordWrite) (p : WriteProgress) (s : State) (start : P s) (all : ∀ w ∈ ws, Q w) (run : p.run = none) :
    ∃ hold, Held s.tp.queue ws p.hold hold ∧ takeWords ws p s =
      ({ p with taken := p.taken ++ ws, todo := [], stall := none, hold := hold }, ws.foldl f s) := by
  induction ws generalizing p s with
  | nil => exact ⟨p.hold, held_nil _ _, by rw [takeWords_nil, List.append_nil]; rfl⟩
  | cons w ws ih =>
    obtain ⟨keeps, queue, taken⟩ := step s w start (all w List.mem_cons_self)
    rw [← run] at taken
    obtain ⟨hold, held, rest⟩ := ih { p with taken := p.taken ++ [w], hold := max p.hold (holdDepth s.tp.queue w) } (f s w) keeps
      (fun x hx => all x (List.mem_cons_of_mem _ hx)) run
    rw [queue] at held
    refine ⟨hold, (held_word s.tp.queue w p.hold).append held, ?_⟩
    rw [takeWords_cons _ _ _ _ (by rw [taken]; rfl), taken]
    refine (rest : takeWords ws _ _ = _).trans ?_
    rw [List.append_assoc]
    rfl

/-- A word that no block watches, written or not, changes no block and is in no slot run. -/
theorem takeWord_unwatched {b : Nat} {s : State} (base : s.tp.controlBase = some b) {x : WordWrite}
    (h : x.enables ≠ 0 → OutsideWindows b s x.addr) : takeWord s x none = passWord s x none := by
  by_cases written : x.enables = 0
  · exact takeWord_unwritten written none
  · exact takeWord_elsewhere written (decodeWrite_elsewhere base (h written)) none

/-- Words that no block watches change no block; they hold the write for the records they overlap. -/
theorem takeWords_unwatched {b : Nat} {s : State} (base : s.tp.controlBase = some b) (ws : List WordWrite) (p : WriteProgress)
    (outside : ∀ x ∈ ws, x.enables ≠ 0 → OutsideWindows b s x.addr) (run : p.run = none) :
    ∃ hold, Held s.tp.queue ws p.hold hold ∧
      takeWords ws p s = ({ p with taken := p.taken ++ ws, todo := [], stall := none, hold := hold }, s) := by
  obtain ⟨hold, held, taken⟩ := takeWords_runless (fun s _ => s) (fun x => x.enables ≠ 0 → OutsideWindows b s x.addr) (· = s)
    (fun t x start out => ⟨start, rfl, by subst start; exact takeWord_unwatched base out⟩) ws p s rfl outside run
  rw [List.foldl_fixed] at taken
  exact ⟨hold, held, taken⟩

/-- A write waits no longer for words that share no byte with a record. -/
theorem held_eq_of_clear {q : List QueueEntry} {ws : List WordWrite} {before after : Nat} (held : Held q ws before after)
    (clear : ∀ e ∈ q, ∀ x ∈ ws, ¬ Touches e x) : after = before := by
  obtain ⟨-, -, same | ⟨i, e, place, ⟨x, hx, touches⟩, -⟩⟩ := held
  · exact same
  · exact absurd touches (clear e (List.mem_of_getElem? place) x hx)

/-- A word that lies in bytes clear of the queue overlaps no record. -/
theorem not_touches_of_clear {q : List QueueEntry} {a n : Nat} (clear : QueueClear q a n) {e : QueueEntry} (he : e ∈ q)
    {x : WordWrite} (low : a ≤ x.addr) (high : x.addr + 4 ≤ a + n) : ¬ Touches e x := by
  rintro ⟨j, hj, -, first, last⟩
  have := clear e he
  omega

/-- Settles O43: the words pass without a block, a transaction waits behind another, and a response goes up as it came. -/
theorem writePassesThroughUnchanged : Obligations.WritePassesThroughUnchanged := by
  refine ⟨fun b s w free wf outside => ?_, fun s w r high port => ⟨fun c hc => ?_, fun c hc => ?_⟩, fun s k a r high sent => ?_⟩
  · obtain ⟨running, port⟩ := free
    obtain ⟨hold, held, taken⟩ := takeWords_unwatched running.2.1 (burstWords w) (newWrite w) outside rfl
    have arrives : s.arrive (.write (newWrite w)) = passedOrHeld hold w.addr.toNat (burstWords w) s := by
      rw [arrive_write port, taken]
      exact settleWrite_arrived port w.addr.toNat (burstWords w) hold
    refine ⟨fun clear c hc => ?_, fun c hc => ⟨hold, held, ?_⟩⟩
    · have none_held : hold = 0 := held_eq_of_clear held fun e he x hx =>
        not_touches_of_clear clear he (burstWords_addr wf hx).1 (burstWords_addr wf hx).2.1
      rw [exec_write running.1 w hc, arrives, passedOrHeld, if_pos none_held]
    · rw [exec_write running.1 w hc, arrives]
  · rw [exec_write high w hc, arrive_behind port]
  · rw [exec_read high (.arrive r) hc]
    exact congrArg Host.Outcome.next (arrive_behind port _)
  · refine (congrArg Host.Outcome.next (whenRunning_high s _ high)).trans ?_
    simp only [State.busWrite, State.answerWrite, sent]
    rfl

/-! ## What is left of a write (R165) -/

/-- Words are taken the same whatever the write took before them: its address, its words and what it waits for are beside. -/
theorem takeWords_beside (ws : List WordWrite) (p q : WriteProgress) (s : State) (before : List WordWrite) (hold : Nat)
    (run : p.run = q.run) (taken : p.taken = before ++ q.taken) (held : p.hold = max hold q.hold) :
    takeWords ws p s = ({ (takeWords ws q s).1 with
      addr := p.addr, taken := before ++ (takeWords ws q s).1.taken, hold := max hold (takeWords ws q s).1.hold },
      (takeWords ws q s).2) := by
  induction ws generalizing p q s with
  | nil =>
    rw [takeWords_nil, takeWords_nil, ← taken, ← held, ← run]
  | cons w ws ih =>
    cases stall : (takeWord s w q.run).stall with
    | some x =>
      rw [takeWords_stall w ws p s x (by rw [run, stall]), takeWords_stall w ws q s x stall, run, taken, held, List.append_assoc,
        max_assoc]
    | none =>
      rw [takeWords_cons w ws p s (by rw [run, stall]), takeWords_cons w ws q s stall, run]
      exact ih _ _ _ rfl (by rw [taken, List.append_assoc]) (by rw [held, max_assoc])

/-- A write keeps its address. -/
theorem takeWords_addr (ws : List WordWrite) (p : WriteProgress) (s : State) : (takeWords ws p s).1.addr = p.addr :=
  congrArg (fun r : WriteProgress × State => r.1.addr) (takeWords_beside ws p p s [] 0 rfl rfl (Nat.zero_max _).symm)

/-- A write that is not stalled has had all its words taken. -/
theorem takeWords_done (ws : List WordWrite) (p : WriteProgress) (s : State) (h : (takeWords ws p s).1.stall = none) :
    (takeWords ws p s).1.todo = [] := by
  induction ws generalizing p s with
  | nil => rfl
  | cons w ws ih =>
    cases stall : (takeWord s w p.run).stall with
    | some x =>
      rw [takeWords_stall w ws p s x stall] at h
      exact absurd h (Option.some_ne_none x)
    | none =>
      rw [takeWords_cons w ws p s stall] at h ⊢
      exact ih _ _ h

/-! ## What the taking of words leaves at the ports (R156) -/

/-- Nothing has passed the ports, and what waits at the upstream port is what waited there. -/
def PortsStand (ports : Ports) (upstream : List Upstream) (s : State) : Prop := s.ports = ports ∧ s.tp.upstream = upstream

section

variable {ports : Ports} {upstream : List Upstream}

theorem portsStand_frameSteps : FrameSteps (PortsStand ports upstream) where
  toSweepSteps := sweepSteps_of_pieces (fun _ _ hs => hs) (fun _ _ hs => hs) (fun _ _ _ hs => hs)
    fun s r hs _ => by rw [enterResult_eq]; exact hs
  fr _ _ hs := hs
  fm _ _ hs := hs

theorem portsStand_ownerSteps : OwnerSteps (PortsStand ports upstream) where
  toFrameSteps := portsStand_frameSteps
  table _ _ hs := hs
  tsm _ _ hs := hs
  clear _ _ hs := hs
  windows o s hs _ := by
    rw [applyWindows_eq]
    exact hs
  reports _ _ hs := hs
  setImage _ _ hs _ := hs
  mapField _ _ hs _ := hs
  clearMap _ hs _ := hs
  publish _ hs _ := hs
  release _ hs _ := hs

theorem portsStand_wordSteps : WordSteps (PortsStand ports upstream) where
  capture _ w run slot n hs := portsStand_frameSteps.takeCapture hs w run slot n
  dd _ _ hs := hs
  own d _ hs := portsStand_ownerSteps.own d hs
  outcome _ _ hs _ := hs
  image _ _ _ _ hs := hs

end

/-- The blocks that take words do not look at the ports. -/
theorem takeWords_ports (ws : List WordWrite) (p : WriteProgress) (s : State) :
    (takeWords ws p s).2.ports = s.ports ∧ (takeWords ws p s).2.tp.upstream = s.tp.upstream :=
  (portsStand_wordSteps (ports := s.ports) (upstream := s.tp.upstream)).takeWords ws p ⟨rfl, rfl⟩

/-! ## The release of the front transaction (R156, R163 to R165) -/

section

variable {s : State} {p : WriteProgress} {rest : List Upstream}

/-- The state with nothing at the upstream port, in which the words of the front write are taken. -/
def portEmpty (s : State) : State := { s with tp := { s.tp with upstream := [] } }

theorem serveFront_write (front : s.tp.upstream = .write p :: rest) (stall : p.stall = none) :
    s.serveFront = settleWrite (takeWords p.todo p.resumed (portEmpty s)).1 rest (takeWords p.todo p.resumed (portEmpty s)).2 := by
  rw [State.serveFront, front]
  dsimp only
  rw [stall]
  rfl

/-- A write that is stalled stays where it is. -/
theorem serveFront_stalled (front : s.tp.upstream = .write p :: rest) (stall : p.stall ≠ none) : s.serveFront = s := by
  obtain ⟨x, hx⟩ := Option.ne_none_iff_exists'.mp stall
  rw [State.serveFront, front]
  dsimp only
  rw [hx]

/-- A write with no word left, which waits for a record, stays where it is. -/
theorem serveFront_waits (front : s.tp.upstream = .write p :: rest) (todo : p.todo = []) (hold : p.hold ≠ 0) :
    s.serveFront = s := by
  by_cases stall : p.stall = none
  · have resumed : p.resumed = p := by rw [WriteProgress.resumed, todo]
    have same : ({ p with todo := [], stall := none } : WriteProgress) = p := by rw [← todo, ← stall]
    rw [serveFront_write front stall, resumed, todo, takeWords_nil, same, settleWrite_stays (Or.inr hold), ← front]
    rfl
  · exact serveFront_stalled front stall

theorem serveFront_read {r : ReadBurst} (front : s.tp.upstream = .read r :: rest) : s.serveFront = advanceRead r rest s := by
  rw [State.serveFront, front]

/-- The words left of the front write are taken as those of a write that arrives at a free port, and are beside what it took before. -/
theorem takeWords_resumed (s : State) (p : WriteProgress) (w : WriteBurst) : ∃ run,
    takeWords p.todo p.resumed (portEmpty s) = ({ (takeWords p.todo (newWrite w) (portEmpty s)).1 with
      addr := p.addr, taken := p.taken ++ (takeWords p.todo (newWrite w) (portEmpty s)).1.taken, run := run
      hold := max p.hold (takeWords p.todo (newWrite w) (portEmpty s)).1.hold },
      (takeWords p.todo (newWrite w) (portEmpty s)).2) := by
  rw [resumed_eq]
  by_cases none_left : p.todo = []
  · rw [if_pos none_left, none_left, takeWords_nil, takeWords_nil]
    exact ⟨p.run, by simp [newWrite]⟩
  · rw [if_neg none_left]
    exact ⟨_, takeWords_beside p.todo _ (newWrite w) (portEmpty s) p.taken p.hold rfl (List.append_nil _).symm (Nat.max_zero _).symm⟩

end

/-- Words left that no block watches are taken, and the write waits for the records they overlap. -/
theorem takeWords_left {b : Nat} {s : State} (base : s.tp.controlBase = some b) (p : WriteProgress)
    (outside : ∀ x ∈ p.todo, x.enables ≠ 0 → OutsideWindows b s x.addr) : ∃ hold run, Held s.tp.queue p.todo p.hold hold ∧
      takeWords p.todo p.resumed (portEmpty s) =
        ({ p with taken := p.taken ++ p.todo, todo := [], run := run, hold := hold, stall := none }, portEmpty s) := by
  rw [resumed_eq]
  by_cases none_left : p.todo = []
  · rw [none_left, takeWords_nil, List.append_nil]
    exact ⟨p.hold, p.run, held_nil _ _, rfl⟩
  · rw [if_neg none_left]
    obtain ⟨hold, held, taken⟩ := takeWords_unwatched (s := portEmpty s) base p.todo { p with run := none } outside rfl
    exact ⟨hold, none, held, taken⟩

/-- What waits behind a write goes on waiting. -/
theorem settleWrite_rest (p : WriteProgress) (rest : List Upstream) (s : State) :
    settleWrite p rest s = { settleWrite p [] s with
      tp := { (settleWrite p [] s).tp with upstream := (settleWrite p [] s).tp.upstream ++ rest } } := by
  by_cases stays : p.stall ≠ none ∨ p.hold ≠ 0
  · rw [settleWrite_stays stays, settleWrite_stays stays]
    rfl
  · rw [not_or, not_not, not_not] at stays
    rw [settleWrite_passes stays.1 stays.2, settleWrite_passes stays.1 stays.2]
    rfl

/-- A write that goes on, its words left taken as those of `q`: it passes as `q` would, unless it waits for a record of its own, and
stays as `q` would otherwise. -/
theorem settleWrite_beside {p q : WriteProgress} {u : State} (rest : List Upstream) (run : Option SlotRun) (ports : Ports)
    (stood : u.ports = ports) (empty : u.tp.upstream = []) (stall : p.stall = none) (done : q.stall = none → q.todo = []) :
    let t := settleWrite q [] u
    let left := settleWrite { q with addr := p.addr, taken := p.taken ++ q.taken, run := run, hold := max p.hold q.hold } rest u
    (∃ words, t.tp.upstream = [] ∧ t.ports.down = ports.down ++ [.write q.addr words] ∧
      let v : State := { t with tp := { t.tp with outstanding := t.tp.outstanding.dropLast }, ports := ports }
      left = if p.hold = 0 then { v with
        tp := { v.tp with upstream := rest, outstanding := v.tp.outstanding ++ [.write p.addr] }
        ports := { ports with down := ports.down ++ [.write p.addr (p.taken ++ words)] } }
      else { v with
        tp := { v.tp with upstream := .write { p with taken := p.taken ++ words, todo := [], run := run } :: rest } }) ∨
    ∃ q', t.tp.upstream = [.write q'] ∧ left = { t with
      tp := { t.tp with upstream := .write { q' with
        addr := p.addr, taken := p.taken ++ q'.taken, run := run, hold := max p.hold q'.hold } :: rest } } := by
  intro t left
  by_cases stays : q.stall ≠ none ∨ q.hold ≠ 0
  · refine Or.inr ⟨q, ?_, ?_⟩
    · rw [show t = _ from settleWrite_stays stays [] u]
    · have held : q.stall ≠ none ∨ max p.hold q.hold ≠ 0 := stays.imp_right fun h => by omega
      rw [show left = _ from settleWrite_stays held rest u, show t = _ from settleWrite_stays stays [] u]
  · rw [not_or, not_not, not_not] at stays
    obtain ⟨running, free⟩ := stays
    have passes : t = _ := settleWrite_passes running free [] u
    refine Or.inl ⟨q.taken, ?_, ?_, ?_⟩
    · rw [passes]
    · rw [passes, stood]
    · intro v
      have same : v = u := by
        change { t with tp := { t.tp with outstanding := t.tp.outstanding.dropLast }, ports := ports } = u
        rw [passes, ← stood]
        dsimp only
        rw [List.dropLast_concat, ← empty]
      have most : max p.hold q.hold = p.hold := by omega
      rw [same]
      by_cases own : p.hold = 0
      · rw [if_pos own, ← stood]
        exact settleWrite_passes (p := { q with
          addr := p.addr, taken := p.taken ++ q.taken, run := run, hold := max p.hold q.hold }) running (most.trans own) rest u
      · have same_ports : ({ u with ports := ports } : State) = u := by rw [← stood]
        rw [if_neg own]
        refine (settleWrite_stays (Or.inr (by rw [most]; exact own)) rest u).trans ?_
        rw [most, done running, running, stall]

theorem arrive_portEmpty (s : State) (w : WriteBurst) : (portEmpty s).arrive (.write (newWrite w)) =
    settleWrite (takeWords (burstWords w) (newWrite w) (portEmpty s)).1 [] (takeWords (burstWords w) (newWrite w) (portEmpty s)).2 :=
  arrive_write rfl w

/-- Settles O40: the front transaction by its kind, and a write by its stall, its words left and what it waits for. -/
theorem heldTransactionPassesWhenFree : Obligations.HeldTransactionPassesWhenFree := by
  intro s rest high
  rw [exec_heldTransactionRelease high]
  refine ⟨fun empty => ?_, fun r front => ⟨fun held => ?_, readHeld_iff, fun free => ?_⟩, fun p front => ⟨fun waits => ?_,
    fun stall todo hold => ?_, fun b stall running outside => ?_⟩, fun p w front stall words => ?_, fun w front => ?_⟩
  · rw [State.serveFront, empty]
  · rw [serveFront_read front, advanceRead_held held, ← front]
    rfl
  · rw [serveFront_read front, advanceRead_free free]
  · rcases waits with stalled | ⟨todo, hold⟩
    · rw [serveFront_stalled front stalled]
    · rw [serveFront_waits front todo hold]
  · rw [serveFront_done front stall todo hold]
  · obtain ⟨hold, run, held, taken⟩ := takeWords_left running.2.1 p outside
    refine ⟨hold, run, held, ?_⟩
    intro left
    rw [serveFront_write front stall, taken]
    by_cases free : hold = 0
    · rw [if_pos free, settleWrite_passes rfl free]
      rfl
    · have same : ({ p with taken := p.taken ++ p.todo, todo := [], run := run, hold := hold, stall := none } : WriteProgress) =
          left := by rw [← stall]
      rw [if_neg free, settleWrite_stays (Or.inr free), same]
      rfl
  · obtain ⟨run, taken⟩ := takeWords_resumed s p w
    obtain ⟨stood, empty⟩ := takeWords_ports p.todo (newWrite w) (portEmpty s)
    have whole := settleWrite_beside rest run s.ports stood empty stall (takeWords_done p.todo (newWrite w) (portEmpty s))
    rw [takeWords_addr] at whole
    refine ⟨_, run, exec_write (s := portEmpty s) high w (by simp), ?_⟩
    rw [serveFront_write front stall, taken, arrive_portEmpty, words]
    obtain ⟨ws, port, down, left⟩ | ⟨q, port, left⟩ := whole
    · exact Or.inl ⟨ws, port, down, congrArg Host.Outcome.next left⟩
    · exact Or.inr ⟨q, port, congrArg Host.Outcome.next left⟩
  · refine ⟨_, exec_write (s := portEmpty s) high w (by simp), ?_⟩
    rw [serveFront_write front rfl, newWrite_resumed, arrive_portEmpty]
    exact congrArg Host.Outcome.next (settleWrite_rest _ rest _)

end Sys2Proof.Proofs
end

section
/-! A write into the image window (sections 7.3, 7.5): what its words do to an entry, one after another, is told by the bytes it
carries for the entry's field. -/

namespace Sys2Proof.Proofs

open Sys2Proof.Machine

/-! ## The bytes a write carries -/

/-- The words of beats lie from their start on, each four bytes behind the one before it. -/
theorem beatWords_ascending (l : List Beat) (a : Nat) :
    (∀ x ∈ beatWords a l, a ≤ x.addr) ∧ (beatWords a l).Pairwise fun x y => x.addr + 4 ≤ y.addr := by
  induction l generalizing a with
  | nil => exact ⟨fun x hx => absurd hx List.not_mem_nil, List.Pairwise.nil⟩
  | cons b l ih =>
    obtain ⟨behind, sorted⟩ := ih (a + 8)
    have own : ∀ x ∈ Beat.words a b, x.addr = a ∨ x.addr = a + 4 := fun x hx => beat_addr hx
    refine ⟨fun x hx => ?_, List.pairwise_append.mpr ⟨?_, sorted, fun x hx y hy => ?_⟩⟩
    · rcases List.mem_append.mp hx with hx | hx
      · have := own x hx
        omega
      · have := behind x hx
        omega
    · exact List.pairwise_cons.mpr ⟨fun y hy => by rw [List.mem_singleton.mp hy], List.pairwise_singleton _ _⟩
    · have := own x hx
      have := behind y hy
      omega

theorem burstWords_ascending (w : WriteBurst) : (burstWords w).Pairwise fun x y => x.addr + 4 ≤ y.addr :=
  (beatWords_ascending w.beats (firstBeat w.addr)).2

section

variable {w : WriteBurst} (wf : w.wf = true)
include wf

/-- The bytes that a word of the write carries. -/
theorem writtenByte_of_mem {x : WordWrite} (hx : x ∈ burstWords w) {i : Nat} (hi : i < 4) :
    writtenByte w (x.addr + i) = if x.enables.getLsbD i then some (wordByte x.data i) else none := by
  rw [burstWords, firstBeat_of_wf wf] at hx
  obtain ⟨k, hk, hx⟩ := beatWords_mem.mp hx
  simp only [Beat.words, List.mem_cons, List.not_mem_nil, or_false] at hx
  have beat (j : Nat) (hj : j < 8) : writtenByte w (w.addr.toNat + 8 * k + j) =
      if w.beats[k].lanes.getLsbD j then some (w.beats[k].data.extractLsb' (8 * j) 8).toNat else none := by
    have index : (w.addr.toNat + 8 * k + j - w.addr.toNat) / 8 = k := by omega
    have lane : (w.addr.toNat + 8 * k + j - w.addr.toNat) % 8 = j := by omega
    rw [writtenByte, if_neg (by omega), index, lane, List.getElem?_eq_getElem hk]
  rcases hx with rfl | rfl
  · have byte : ((w.beats[k].data.extractLsb' 0 32).extractLsb' (8 * i) 8) = w.beats[k].data.extractLsb' (8 * i) 8 := by
      apply BitVec.eq_of_getLsbD_eq
      intro j hj
      simp [show 8 * i + j < 32 by omega]
    dsimp only
    rw [beat i (by omega), wordByte, byte, BitVec.getLsbD_extractLsb', decide_eq_true hi, Bool.true_and, Nat.zero_add]
  · have byte : ((w.beats[k].data.extractLsb' 32 32).extractLsb' (8 * i) 8) = w.beats[k].data.extractLsb' (8 * (4 + i)) 8 := by
      apply BitVec.eq_of_getLsbD_eq
      intro j hj
      simp [show 8 * i + j < 32 by omega, show 32 + (8 * i + j) = 8 * (4 + i) + j by omega]
    dsimp only
    rw [Nat.add_assoc _ 4 i, beat (4 + i) (by omega), wordByte, byte, BitVec.getLsbD_extractLsb', decide_eq_true hi, Bool.true_and]

/-- A write carries a byte in one of its words alone. -/
theorem writtenByte_of_not_mem {a : Nat} (h : ∀ x ∈ burstWords w, ¬ (x.addr ≤ a ∧ a < x.addr + 4)) : writtenByte w a = none := by
  rw [writtenByte]
  by_cases before : a < w.addr.toNat
  · rw [if_pos before]
  · rw [if_neg before]
    cases beat : w.beats[(a - w.addr.toNat) / 8]? with
    | none => rfl
    | some y =>
      obtain ⟨hk, -⟩ := List.getElem?_eq_some_iff.mp beat
      have in_burst {x : WordWrite} (hx : x ∈ Beat.words (w.addr.toNat + 8 * ((a - w.addr.toNat) / 8))
          w.beats[(a - w.addr.toNat) / 8]) : x ∈ burstWords w := by
        rw [burstWords, firstBeat_of_wf wf]
        exact beatWords_mem.mpr ⟨_, hk, hx⟩
      have low := h _ (in_burst List.mem_cons_self)
      have high := h _ (in_burst (List.mem_cons_of_mem _ List.mem_cons_self))
      dsimp only at low high
      omega

end

/-! ## What a word does to an entry (R120, R127, R128) -/

/-- The bytes of the field that lie in a word, for an 8-bit field: its one byte. -/
theorem fieldLanes_all_eight {e : PatchEntry} {offset k : Nat} (width : e.width = 8) (place : e.offset = offset + k) (hk : k < 4)
    (p : Nat → Bool) : (fieldLanes e offset).all p = p k := by
  rw [Bool.eq_iff_iff, fieldLanes, List.all_eq_true]
  simp only [List.mem_filter, List.mem_range, Bool.and_eq_true, decide_eq_true_eq, width, place]
  constructor
  · exact fun all => all k ⟨hk, by omega, by omega⟩
  · rintro own i ⟨-, low, high⟩
    rwa [show i = k by omega]

/-- The same for a 16-bit field: its two bytes, when the word holds both. -/
theorem fieldLanes_all_sixteen {e : PatchEntry} {offset k : Nat} (width : e.width = 16) (place : e.offset = offset + k) (hk : k < 3)
    (p : Nat → Bool) : (fieldLanes e offset).all p = (p k && p (k + 1)) := by
  rw [Bool.eq_iff_iff, fieldLanes, List.all_eq_true, Bool.and_eq_true]
  simp only [List.mem_filter, List.mem_range, Bool.and_eq_true, decide_eq_true_eq, width, place]
  constructor
  · exact fun all => ⟨all k ⟨by omega, by omega, by omega⟩, all (k + 1) ⟨by omega, by omega, by omega⟩⟩
  · rintro ⟨low_, high_⟩ i ⟨-, low, high⟩
    rcases (by omega : i = k ∨ i = k + 1) with rfl | rfl
    · exact low_
    · exact high_

section

variable {offset : Nat} {data : Word} {enables : BitVec 4} {e : PatchEntry}

/-- None of the field's bytes is written: the entry stays. -/
theorem writtenEntry_of_none (h : (fieldLanes e offset).all (fun i => !enables.getLsbD i) = true) :
    writtenEntry offset data enables e = e := by
  simp only [writtenEntry, writeEntry, h, if_true]

/-- All of the field's bytes are written: they are the baseline. -/
theorem writtenEntry_of_all (some_ : (fieldLanes e offset).all (fun i => !enables.getLsbD i) = false)
    (all : (fieldLanes e offset).all (fun i => enables.getLsbD i) = true) :
    writtenEntry offset data enables e = { e with baseline := some (writtenValue e data (e.offset - offset)) } := by
  simp only [writtenEntry, writeEntry, some_, all, Bool.false_eq_true, if_false, if_true]

/-- Some of the field's bytes are written: the entry is DORMANT without a baseline. -/
theorem writtenEntry_of_some (some_ : (fieldLanes e offset).all (fun i => !enables.getLsbD i) = false)
    (part : (fieldLanes e offset).all (fun i => enables.getLsbD i) = false) :
    writtenEntry offset data enables e = { e with baseline := none, state := .dormant } := by
  simp only [writtenEntry, writeEntry, some_, part, Bool.false_eq_true, if_false]
  cases state : e.state with
  | live frozen => rfl
  | dormant => rfl

/-- A word that the field does not lie in leaves the entry. -/
theorem writtenEntry_apart (h : offset + 4 ≤ e.offset ∨ e.offset + e.width / 8 ≤ offset) :
    writtenEntry offset data enables e = e := by
  refine writtenEntry_of_none (List.all_eq_true.mpr fun i hi => ?_)
  simp only [fieldLanes, List.mem_filter, List.mem_range, Bool.and_eq_true, decide_eq_true_eq] at hi
  omega

theorem writtenEntry_unwritten : writtenEntry offset data 0 e = e :=
  writtenEntry_of_none (List.all_eq_true.mpr fun i _ => by simp)

end

/-- The one word of a write that the field of an entry lies in does to the entry what the bytes of the write say. -/
theorem writtenEntry_judged {w : WriteBurst} (wf : w.wf = true) {x : WordWrite} (hx : x ∈ burstWords w) {e : PatchEntry} {a k offset : Nat}
    (width : e.width = 8 ∧ k < 4 ∨ e.width = 16 ∧ k < 3) (place : e.offset = offset + k) (at_ : a = x.addr + k) :
    writtenEntry offset x.data x.enables e = judgedEntry w a e := by
  have low := writtenByte_of_mem wf hx (i := k) (by omega)
  have index : e.offset - offset = k := by omega
  subst at_
  rcases width with ⟨eight, hk⟩ | ⟨sixteen, hk⟩
  · have lanes := fieldLanes_all_eight eight place hk
    cases written : x.enables.getLsbD k with
    | false =>
      rw [written, if_neg Bool.false_ne_true] at low
      rw [writtenEntry_of_none (by rw [lanes, written]; rfl), judgedEntry, low]
      cases writtenByte w (x.addr + k + 1) with
      | none => rfl
      | some hi => exact (if_pos eight).symm
    | true =>
      rw [written, if_pos rfl] at low
      rw [writtenEntry_of_all (by rw [lanes, written]; rfl) (by rw [lanes, written]), judgedEntry, low, index, writtenValue, if_pos eight]
      cases writtenByte w (x.addr + k + 1) with
      | none => exact (if_pos eight).symm
      | some hi => exact congrArg (fun v => { e with baseline := some v }) (if_pos eight).symm
  · have lanes := fieldLanes_all_sixteen sixteen place hk
    have narrow : ¬ e.width = 8 := by omega
    have high := writtenByte_of_mem wf hx (i := k + 1) (by omega)
    rw [← Nat.add_assoc] at high
    cases first : x.enables.getLsbD k with
    | false =>
      rw [first, if_neg Bool.false_ne_true] at low
      cases second : x.enables.getLsbD (k + 1) with
      | false =>
        rw [second, if_neg Bool.false_ne_true] at high
        rw [writtenEntry_of_none (by rw [lanes, first, second]; rfl), judgedEntry, low, high]
      | true =>
        rw [second, if_pos rfl] at high
        rw [writtenEntry_of_some (by rw [lanes, first, second]; rfl) (by rw [lanes, first, second]; rfl), judgedEntry, low, high]
        exact (if_neg narrow).symm
    | true =>
      rw [first, if_pos rfl] at low
      cases second : x.enables.getLsbD (k + 1) with
      | false =>
        rw [second, if_neg Bool.false_ne_true] at high
        rw [writtenEntry_of_some (by rw [lanes, first, second]; rfl) (by rw [lanes, first, second]; rfl), judgedEntry, low, high]
        exact (if_neg narrow).symm
      | true =>
        rw [second, if_pos rfl] at high
        rw [writtenEntry_of_all (by rw [lanes, first, second]; rfl) (by rw [lanes, first, second]; rfl), judgedEntry, low, high, index,
          writtenValue, if_neg narrow]
        exact congrArg (fun v => { e with baseline := some v }) (if_neg narrow).symm

/-! ## The words of a write, one after another -/

/-- Words that leave an entry each leave it together. -/
theorem foldl_unchanged {α β : Type} (g : α → β → α) (l : List β) (a : α) (h : ∀ x ∈ l, g a x = a) : l.foldl g a = a := by
  induction l with
  | nil => rfl
  | cons x l ih =>
    rw [List.foldl_cons, h x List.mem_cons_self]
    exact ih fun y hy => h y (List.mem_cons_of_mem _ hy)

/-- An entry after the words of a write, taken in order. -/
def writtenThrough (base : Nat) (ws : List WordWrite) (e : PatchEntry) : PatchEntry :=
  ws.foldl (fun e x => writtenEntry (x.addr - base) x.data x.enables e) e

/-- A write into the window judges an entry by the bytes it carries for the field (R120, R127, R128). -/
theorem writtenThrough_judged {w : WriteBurst} (wf : w.wf = true) {base : Nat} {e : PatchEntry} (aligned : base % 4 = 0)
    (width : e.width = 8 ∨ e.width = 16) (even : e.width = 16 → e.offset % 2 = 0)
    (inside : ∀ x ∈ burstWords w, x.enables ≠ 0 → base ≤ x.addr) :
    writtenThrough base (burstWords w) e = judgedEntry w (base + e.offset) e := by
  have beside {x : WordWrite} (hx : x ∈ burstWords w) (other : x.addr ≠ base + e.offset / 4 * 4) {y : PatchEntry} (same : SameField y e) :
      writtenEntry (x.addr - base) x.data x.enables y = y := by
    have aligned_ := (burstWords_addr wf hx).2.2
    by_cases written : x.enables = 0
    · rw [written]
      exact writtenEntry_unwritten
    · have low := inside x hx written
      have offset := same.offset
      have size := same.width
      refine writtenEntry_apart ?_
      rcases width with eight | sixteen
      · omega
      · have := even sixteen
        omega
  by_cases found : ∃ x ∈ burstWords w, x.addr = base + e.offset / 4 * 4
  · obtain ⟨x, hx, at_⟩ := found
    obtain ⟨before, after, words⟩ := List.append_of_mem hx
    have sorted := burstWords_ascending w
    rw [words, List.pairwise_append, List.pairwise_cons] at sorted
    obtain ⟨-, ⟨ahead, -⟩, apart⟩ := sorted
    have first : before.foldl (fun e x => writtenEntry (x.addr - base) x.data x.enables e) e = e :=
      foldl_unchanged _ _ _ fun y hy => beside (by rw [words]; exact List.mem_append_left _ hy)
        (by have := apart y hy x List.mem_cons_self; omega) rfl
    have judged : writtenEntry (x.addr - base) x.data x.enables e = judgedEntry w (base + e.offset) e := by
      refine writtenEntry_judged wf hx (k := e.offset % 4) ?_ (by omega) (by omega)
      rcases width with eight | sixteen
      · exact Or.inl ⟨eight, by omega⟩
      · have := even sixteen
        exact Or.inr ⟨sixteen, by omega⟩
    have last : after.foldl (fun e x => writtenEntry (x.addr - base) x.data x.enables e)
        (writtenEntry (x.addr - base) x.data x.enables e) = writtenEntry (x.addr - base) x.data x.enables e :=
      foldl_unchanged _ _ _ fun y hy => beside
        (by rw [words]; exact List.mem_append_right _ (List.mem_cons_of_mem _ hy))
        (by have := ahead y hy; omega) (writtenEntry_sameField _ _ _ e)
    rw [writtenThrough, words, List.foldl_append, List.foldl_cons, first, last, judged]
  · have absent {i : Nat} (hi : e.offset / 4 = (e.offset + i) / 4) : writtenByte w (base + e.offset + i) = none := by
      refine writtenByte_of_not_mem wf fun x hx bytes => found ⟨x, hx, ?_⟩
      have := (burstWords_addr wf hx).2.2
      omega
    have whole : writtenThrough base (burstWords w) e = e :=
      foldl_unchanged _ _ _ fun x hx => beside hx (fun at_ => found ⟨x, hx, at_⟩) rfl
    rw [whole, judgedEntry, show writtenByte w (base + e.offset) = none from absent (i := 0) rfl]
    rcases width with eight | sixteen
    · cases writtenByte w (base + e.offset + 1) with
      | none => rfl
      | some hi => exact (if_pos eight).symm
    · have := even sixteen
      rw [absent (i := 1) (by omega)]

/-! ## The image after a write -/

/-- The Image Patcher takes a word at its offset; one that is not written changes nothing, and is passed over (R116, R120). -/
def imageTakes (base : Nat) (s : State) (x : WordWrite) : State :=
  if x.enables = 0 then s else s.withIp (s.ip.write (x.addr - base) x.data x.enables)

/-- The image after the words of a write: each entry has been through them, and the rest of the state stands. -/
theorem foldl_imageTakes (base : Nat) (ws : List WordWrite) (s : State) :
    (ws.foldl (imageTakes base) s).ip.map = s.ip.map.map (writtenThrough base ws) ∧
    { ws.foldl (imageTakes base) s with ip := s.ip } = s ∧
    { (ws.foldl (imageTakes base) s).ip with map := s.ip.map, adjustment := s.ip.adjustment } = s.ip := by
  induction ws generalizing s with
  | nil => exact ⟨(List.map_id _).symm, rfl, rfl⟩
  | cons x ws ih =>
    obtain ⟨map, frame, image⟩ := ih (imageTakes base s x)
    have one : (imageTakes base s x).ip.map = s.ip.map.map (writtenEntry (x.addr - base) x.data x.enables) ∧
        { imageTakes base s x with ip := s.ip } = s ∧
        { (imageTakes base s x).ip with map := s.ip.map, adjustment := s.ip.adjustment } = s.ip := by
      rw [imageTakes]
      by_cases unwritten : x.enables = 0
      · have same : writtenEntry (x.addr - base) x.data x.enables = id := by
          rw [unwritten]
          exact funext fun e => writtenEntry_unwritten
        rw [if_pos unwritten, same, List.map_id]
        exact ⟨rfl, rfl, rfl⟩
      · rw [if_neg unwritten]
        exact ⟨write_map _ _ _ s.ip, rfl, rfl⟩
    obtain ⟨map1, frame1, image1⟩ := one
    refine ⟨?_, ?_, ?_⟩
    · rw [List.foldl_cons, map, map1, List.map_map]
      rfl
    · exact (congrArg (fun t : State => { t with ip := s.ip }) frame).trans frame1
    · exact (congrArg (fun i : ImagePatcher => { i with map := s.ip.map, adjustment := s.ip.adjustment }) image).trans image1

theorem foldl_imageTakes_inv {base : Nat} (ws : List WordWrite) {s : State} (h : ImageInv s) :
    ImageInv (ws.foldl (imageTakes base) s) := by
  induction ws generalizing s with
  | nil => exact h
  | cons x ws ih =>
    refine ih ?_
    rw [imageTakes]
    split
    · exact h
    · exact imageInv_write h _ _ _

/-- Settles O45: the words of the write go through the map one after another, and each entry lies in one of them at most. -/
theorem imageWriteKeepsBaselinesAndAdjustment : Obligations.ImageWriteKeepsBaselinesAndAdjustment := by
  intro b s w win free windows image wf placed inside
  obtain ⟨running, port⟩ := free
  obtain ⟨base64, length64, -, -, -⟩ := windows.image win placed
  have step (t : State) (x : WordWrite)
      (ht : t.tp = s.tp ∧ t.ip.window = some win)
      (hx : x.addr % 4 = 0 ∧ (x.enables ≠ 0 → win.base ≤ x.addr ∧ x.addr < win.base + win.length)) :
      ((imageTakes win.base t x).tp = s.tp ∧ (imageTakes win.base t x).ip.window = some win) ∧
        (imageTakes win.base t x).tp.queue = t.tp.queue ∧
        takeWord t x none = passWord (imageTakes win.base t x) x none := by
    obtain ⟨tp, window⟩ := ht
    obtain ⟨aligned, within⟩ := hx
    rw [imageTakes]
    by_cases unwritten : x.enables = 0
    · rw [if_pos unwritten]
      exact ⟨⟨tp, window⟩, rfl, takeWord_unwritten unwritten none⟩
    · obtain ⟨low, high⟩ := within unwritten
      have control := windows.imageControl b win running.2.1 placed
      rw [if_neg unwritten]
      refine ⟨⟨tp, window⟩, rfl, takeWord_image unwritten (decodeWrite_image (by rw [tp]; exact running.2.1) window ?_ ?_ ⟨low, high⟩) none⟩
      · rw [Apart] at control
        have := base_cases running
        omega
      · intro r ring
        rw [tp] at ring
        have ring_apart := windows.captureImage r win ring placed
        have ring_aligned := windows.capture r ring
        rw [Apart] at ring_apart
        omega
  obtain ⟨hold, held, taken⟩ := takeWords_runless (imageTakes win.base) _ _ step (burstWords w) (newWrite w) s ⟨rfl, placed⟩
    (fun x hx => ⟨(burstWords_addr wf hx).2.2, inside x hx⟩) rfl
  obtain ⟨map, frame, rest⟩ := foldl_imageTakes win.base (burstWords w) s
  have after := foldl_imageTakes_inv (base := win.base) (burstWords w) image
  generalize (burstWords w).foldl (imageTakes win.base) s = t at taken map frame rest after
  have port' : t.tp.upstream = [] := (congrArg (fun u : State => u.tp.upstream) frame).trans port
  have arrives : s.arrive (.write (newWrite w)) = passedOrHeld hold w.addr.toNat (burstWords w) t := by
    rw [arrive_write port, taken]
    exact settleWrite_arrived port' w.addr.toNat (burstWords w) hold
  refine ⟨passedOrHeld hold w.addr.toNat (burstWords w) t, hold, ?_, held, ?_⟩
  · rw [exec_write running.1 w (by simp), arrives]
  · have ip : (passedOrHeld hold w.addr.toNat (burstWords w) t).ip = t.ip := by
      rw [passedOrHeld]
      split <;> rfl
    have state : { passedOrHeld hold w.addr.toNat (burstWords w) t with ip := s.ip } =
        passedOrHeld hold w.addr.toNat (burstWords w) { t with ip := s.ip } := by
      rw [passedOrHeld, passedOrHeld]
      split <;> rfl
    rw [ip, state, frame]
    refine ⟨rfl, rest, ?_, after.adjustment⟩
    rw [map]
    refine List.map_congr_left fun e he => ?_
    obtain ⟨-, width, even, -⟩ := image.fields win placed e he
    exact writtenThrough_judged wf (by omega) width even fun x hx written => (inside x hx written).1

end Sys2Proof.Proofs
end

section
/-! Writes of the mailbox (sections 9.1, 9.2): the words the latch takes one after another, and a go word with words after it. -/

namespace Sys2Proof.Proofs

open Sys2Proof.Machine

/-! ## Words taken in two parts -/

/-- What is left of a write and what it was stalled for do not matter to the words it takes next. -/
theorem takeWords_blind (ws : List WordWrite) (p : WriteProgress) (todo : List WordWrite) (stall : Option Stall) (s : State) :
    takeWords ws { p with todo := todo, stall := stall } s = takeWords ws p s := by
  have same := takeWords_beside ws { p with todo := todo, stall := stall } p s [] 0 rfl rfl (Nat.zero_max _).symm
  rw [same, List.nil_append, Nat.zero_max, ← takeWords_addr ws p s]

/-- Words that do not stall the write are followed by the rest. -/
theorem takeWords_append (ws rest : List WordWrite) (p : WriteProgress) (s : State) (h : (takeWords ws p s).1.stall = none) :
    takeWords (ws ++ rest) p s = takeWords rest (takeWords ws p s).1 (takeWords ws p s).2 := by
  induction ws generalizing p s with
  | nil => exact (takeWords_blind rest p [] none s).symm
  | cons w ws ih =>
    cases stall : (takeWord s w p.run).stall with
    | some x =>
      rw [takeWords_stall w ws p s x stall] at h
      exact absurd h (Option.some_ne_none x)
    | none =>
      rw [takeWords_cons w ws p s stall] at h ⊢
      rw [List.cons_append, takeWords_cons w (ws ++ rest) p s stall]
      exact ih _ _ h

/-! ## The mailbox latch (R147) -/

/-- The Directive Decoder takes a written word of words 0 to 6 of the mailbox. -/
def mailTakes (b : Nat) (dd : DirectiveDecoder) (x : WordWrite) : DirectiveDecoder :=
  if h : x.enables ≠ 0 ∧ b ≤ x.addr ∧ x.addr < b + 28 then dd.latchWord ⟨(x.addr - b) / 4, by omega⟩ x else dd

theorem mailTakes_beside {b : Nat} {x : WordWrite} (h : ¬ (x.enables ≠ 0 ∧ b ≤ x.addr ∧ x.addr < b + 28)) (dd : DirectiveDecoder) :
    mailTakes b dd x = dd :=
  dif_neg h

/-- A word of the latch with its mark. -/
def mailSlot (dd : DirectiveDecoder) (n : Fin 7) : Word × Bool := (dd.latch[n], dd.marks[n])

/-- A word of the latch with its mark after a write of that word: latched, unmarked, or passed over. -/
def slotAfter (x : WordWrite) (slot : Word × Bool) : Word × Bool :=
  if x.enables = 0 then slot else if x.enables = 0xF then (x.data, true) else (slot.1, false)

theorem latchWord_slot (dd : DirectiveDecoder) (k n : Fin 7) {x : WordWrite} (written : x.enables ≠ 0) :
    mailSlot (dd.latchWord k x) n = if k = n then slotAfter x (mailSlot dd n) else mailSlot dd n := by
  have full_iff : x.full = true ↔ x.enables = 0xF := by simp [WordWrite.full]
  rw [DirectiveDecoder.latchWord, slotAfter, if_neg written]
  by_cases full : x.enables = 0xF
  · rw [if_pos (full_iff.mpr full), if_pos full]
    by_cases same : k = n
    · subst same
      simp [mailSlot]
    · have apart : k.val ≠ n.val := fun h => same (Fin.ext h)
      simp [mailSlot, same, apart]
  · rw [if_neg (fun h => full (full_iff.mp h)), if_neg full]
    by_cases same : k = n
    · subst same
      simp [mailSlot]
    · have apart : k.val ≠ n.val := fun h => same (Fin.ext h)
      simp [mailSlot, same, apart]

theorem mailTakes_slot {b : Nat} (aligned : b % 4 = 0) (dd : DirectiveDecoder) (n : Fin 7) {x : WordWrite} (word : x.addr % 4 = 0) :
    mailSlot (mailTakes b dd x) n = if x.addr = b + 4 * n.val then slotAfter x (mailSlot dd n) else mailSlot dd n := by
  have small := n.isLt
  by_cases h : x.enables ≠ 0 ∧ b ≤ x.addr ∧ x.addr < b + 28
  · rw [mailTakes, dif_pos h, latchWord_slot _ _ _ h.1]
    refine if_congr ?_ rfl rfl
    rw [Fin.ext_iff]
    dsimp only
    omega
  · rw [mailTakes_beside h]
    split
    · next at_ =>
      have unwritten : x.enables = 0 := by
        by_contra written
        exact h ⟨written, by omega, by omega⟩
      rw [slotAfter, if_pos unwritten]
    · rfl

/-- The Directive Decoder after words of the mailbox, by what it held before: the latch and its marks have taken them, and all else
stands. -/
def LatchedBy (b : Nat) (ws : List WordWrite) (old new : DirectiveDecoder) : Prop :=
  { new with latch := old.latch, marks := old.marks } = old ∧ ∀ n : Fin 7,
    (∀ x ∈ ws, x.addr = b + 4 * n.val → x.enables = 0xF → new.latch[n] = x.data ∧ new.marks[n] = true) ∧
    (∀ x ∈ ws, x.addr = b + 4 * n.val → x.enables ≠ 0xF → x.enables ≠ 0 →
      new.latch[n] = old.latch[n] ∧ new.marks[n] = false) ∧
    ((∀ x ∈ ws, x.addr = b + 4 * n.val → x.enables = 0) → new.latch[n] = old.latch[n] ∧ new.marks[n] = old.marks[n])

theorem foldl_mailTakes_frame (b : Nat) (ws : List WordWrite) (dd : DirectiveDecoder) :
    { ws.foldl (mailTakes b) dd with latch := dd.latch, marks := dd.marks } = dd := by
  induction ws generalizing dd with
  | nil => rfl
  | cons x ws ih =>
    have one : { mailTakes b dd x with latch := dd.latch, marks := dd.marks } = dd := by
      rw [mailTakes]
      split
      · rw [DirectiveDecoder.latchWord]
        split <;> rfl
      · rfl
    exact (congrArg (fun d : DirectiveDecoder => { d with latch := dd.latch, marks := dd.marks }) (ih (mailTakes b dd x))).trans one

section

variable {b : Nat} (aligned : b % 4 = 0) {ws : List WordWrite} (words : ∀ x ∈ ws, x.addr % 4 = 0)
include aligned words

/-- A word of the latch that no word written is for stands. -/
theorem foldl_mailTakes_other (dd : DirectiveDecoder) (n : Fin 7) (other : ∀ x ∈ ws, x.addr ≠ b + 4 * n.val) :
    mailSlot (ws.foldl (mailTakes b) dd) n = mailSlot dd n := by
  induction ws generalizing dd with
  | nil => rfl
  | cons x ws ih =>
    rw [List.foldl_cons, ih (fun y hy => words y (List.mem_cons_of_mem _ hy)) _ fun y hy => other y (List.mem_cons_of_mem _ hy),
      mailTakes_slot aligned dd n (words x List.mem_cons_self), if_neg (other x List.mem_cons_self)]

/-- A word of the latch takes the one word written that is for it. -/
theorem foldl_mailTakes_own (sorted : ws.Pairwise fun x y => x.addr + 4 ≤ y.addr) (dd : DirectiveDecoder) (n : Fin 7) {x : WordWrite}
    (hx : x ∈ ws) (own : x.addr = b + 4 * n.val) : mailSlot (ws.foldl (mailTakes b) dd) n = slotAfter x (mailSlot dd n) := by
  obtain ⟨before, after, rfl⟩ := List.append_of_mem hx
  rw [List.pairwise_append, List.pairwise_cons] at sorted
  obtain ⟨-, ⟨ahead, -⟩, apart⟩ := sorted
  have earlier := foldl_mailTakes_other aligned (ws := before) (fun y hy => words y (List.mem_append_left _ hy)) dd n
    fun y hy => by have := apart y hy x List.mem_cons_self; omega
  rw [List.foldl_append, List.foldl_cons,
    foldl_mailTakes_other aligned (fun y hy => words y (List.mem_append_right _ (List.mem_cons_of_mem _ hy))) _ n
      fun y hy => by have := ahead y hy; omega,
    mailTakes_slot aligned _ n (words x hx), if_pos own, earlier]

theorem latchedBy_foldl (sorted : ws.Pairwise fun x y => x.addr + 4 ≤ y.addr) (dd : DirectiveDecoder) :
    LatchedBy b ws dd (ws.foldl (mailTakes b) dd) := by
  refine ⟨foldl_mailTakes_frame b ws dd, fun n => ⟨fun x hx own full => ?_, fun x hx own part written => ?_, fun unwritten => ?_⟩⟩
  · have slot := foldl_mailTakes_own aligned words sorted dd n hx own
    rw [slotAfter, if_neg (by rw [full]; decide), if_pos full] at slot
    exact Prod.mk.inj slot
  · have slot := foldl_mailTakes_own aligned words sorted dd n hx own
    rw [slotAfter, if_neg written, if_neg part] at slot
    exact Prod.mk.inj slot
  · by_cases found : ∃ x ∈ ws, x.addr = b + 4 * n.val
    · obtain ⟨x, hx, own⟩ := found
      have slot := foldl_mailTakes_own aligned words sorted dd n hx own
      rw [slotAfter, if_pos (unwritten x hx own)] at slot
      exact Prod.mk.inj slot
    · exact Prod.mk.inj (foldl_mailTakes_other aligned words dd n fun x hx own => found ⟨x, hx, own⟩)

end

/-! ## The words of a mailbox write -/

/-- A word that is of the mailbox, though no full go word, or that no block watches. -/
def MailWord (b : Nat) (s : State) (x : WordWrite) : Prop :=
  x.addr % 4 = 0 ∧ (x.enables ≠ 0 → (b ≤ x.addr ∧ x.addr < b + 32) ∨ OutsideWindows b s x.addr) ∧
    (x.addr = b + 28 → x.enables ≠ 0xF)

theorem takeWord_mail {b : Nat} {s : State} (base : s.tp.controlBase = some b) (aligned : b % 4 = 0) {x : WordWrite}
    (h : MailWord b s x) : takeWord s x none = passWord (s.withDd (mailTakes b s.dd x)) x none := by
  obtain ⟨word, place, partial_⟩ := h
  by_cases unwritten : x.enables = 0
  · rw [takeWord_unwritten unwritten, mailTakes_beside fun h => h.1 unwritten]
    rfl
  · rcases place unwritten with ⟨low, high⟩ | outside
    · have addr : x.addr = b + 4 * ((x.addr - b) / 4) := by omega
      have index : (x.addr - b) / 4 < 8 := by omega
      have window := decodeWrite_mailbox base s.ip ((x.addr - b) / 4) index
      rw [← addr] at window
      have taken : takeWord s x none = takeMailbox s x ((x.addr - b) / 4) := by
        have written : x.unwritten = false := by simpa [WordWrite.unwritten] using unwritten
        simp only [takeWord, written, window]
        rfl
      rw [taken, takeMailbox]
      by_cases go : x.addr = b + 28
      · have full : ¬ x.full = true := by simpa [WordWrite.full] using partial_ go
        rw [dif_neg (by omega), if_neg full, mailTakes_beside (by omega)]
        rfl
      · rw [dif_pos (by omega), mailTakes, dif_pos ⟨unwritten, low, by omega⟩]
    · have window := outside.1
      rw [takeWord_elsewhere unwritten (decodeWrite_elsewhere base outside), mailTakes_beside (by omega)]
      rfl

/-- Words of the mailbox and words that no block watches go into the latch, and hold the write for the records they overlap. -/
theorem takeWords_mailbox {b : Nat} {s : State} (base : s.tp.controlBase = some b) (aligned : b % 4 = 0) (ws : List WordWrite)
    (p : WriteProgress) (all : ∀ x ∈ ws, MailWord b s x) (run : p.run = none) :
    ∃ hold, Held s.tp.queue ws p.hold hold ∧ takeWords ws p s =
      ({ p with taken := p.taken ++ ws, todo := [], stall := none, hold := hold }, s.withDd (ws.foldl (mailTakes b) s.dd)) := by
  obtain ⟨hold, held, taken⟩ := takeWords_runless (fun t x => t.withDd (mailTakes b t.dd x)) (MailWord b s)
    (fun t => t.tp = s.tp ∧ t.ip = s.ip)
    (fun t x ht hx => ⟨ht, rfl, takeWord_mail (by rw [ht.1]; exact base) aligned (by
      obtain ⟨word, place, partial_⟩ := hx
      refine ⟨word, fun written => (place written).imp_right fun outside => ?_, partial_⟩
      rw [OutsideWindows, ht.1, ht.2]
      exact outside)⟩) ws p s ⟨rfl, rfl⟩ all run
  refine ⟨hold, held, taken.trans (congrArg (Prod.mk _) ?_)⟩
  clear taken held all
  induction ws generalizing s with
  | nil => rfl
  | cons x ws ih =>
    rw [List.foldl_cons, ih (s := s.withDd (mailTakes b s.dd x)) base]
    rfl

end Sys2Proof.Proofs
end

section
/-! MAILBOX_WRITE (sections 9.1, 9.2, 10.6): without a go word, and with one that has words before and after it. -/

namespace Sys2Proof.Proofs

open Sys2Proof.Machine

theorem base_aligned {b : Nat} {s : State} (h : Running b s) : b % 4 = 0 := by
  have := base_cases h
  omega

/-- The write of a burst without a full go word, its written words in the mailbox or where no block watches. -/
theorem arrive_mailbox {b : Nat} {s : State} {w : WriteBurst} (free : PortFree b s) (wf : w.wf = true)
    (place : ∀ x ∈ burstWords w, x.enables ≠ 0 → (b ≤ x.addr ∧ x.addr < b + 32) ∨ OutsideWindows b s x.addr)
    (no_go : ∀ x ∈ burstWords w, x.addr = b + 28 → x.enables ≠ 0xF) : ∃ hold, Held s.tp.queue (burstWords w) 0 hold ∧
      s.arrive (.write (newWrite w)) = passedOrHeld hold w.addr.toNat (burstWords w)
        (s.withDd ((burstWords w).foldl (mailTakes b) s.dd)) := by
  obtain ⟨running, port⟩ := free
  obtain ⟨hold, held, taken⟩ := takeWords_mailbox running.2.1 (base_aligned running) (burstWords w) (newWrite w)
    (fun x hx => ⟨(burstWords_addr wf hx).2.2, place x hx, no_go x hx⟩) rfl
  refine ⟨hold, held, ?_⟩
  rw [arrive_write port, taken]
  exact settleWrite_arrived (t := s.withDd ((burstWords w).foldl (mailTakes b) s.dd)) port w.addr.toNat (burstWords w) hold

/-! ## A write with a full go word (R148, R151, R165) -/

/-- The state in which the go word of a mailbox write is reached: the words before it latched. -/
def beforeGo (b : Nat) (before : List WordWrite) (s : State) : State := s.withDd (before.foldl (mailTakes b) s.dd)

/-- The state in which the words after a go word are taken: the directive has taken effect and its outcome record has entered. -/
def afterGo (b : Nat) (s : State) : State :=
  { (judgeLatch s).2 with
    dd := decoderTaken s.dd none
    tp := { (judgeLatch s).2.tp with
      queue := s.tp.queue ++ [{ addr := b + 0x20, words := outcomeWords (goRecord s), kind := .outcome }] } }

section

variable {b : Nat} {s : State}

/-- A go word alone leaves the same, and its own write. -/
theorem writeGo_afterGo (ready : DirectiveReady b s) (go : Word) : { s.writeGo go with
    tp := { (s.writeGo go).tp with outstanding := s.tp.outstanding }, ports := s.ports } = afterGo b s := by
  obtain ⟨-, -, -, ports, -, -, -, -, outstanding⟩ := judgeLatch_keeps s
  rw [writeGo_room ready, afterGo]
  generalize (judgeLatch s).2 = u at *
  rw [← outstanding, ← ports]

theorem afterGo_upstream (port : s.tp.upstream = []) : (afterGo b s).tp.upstream = [] :=
  (judgeLatch_keeps s).upstream.trans port

theorem afterGo_base (running : Running b s) : (afterGo b s).tp.controlBase = some b :=
  (judgeLatch_keeps s).controlBase.trans running.2.1

/-- The go word is taken, its outcome record entering at once. -/
theorem takeWord_afterGo (running : Running b s) (room : s.tp.queue.length < 16) {go : WordWrite} (at_ : go.addr = b + 28)
    (full : go.enables = 0xF) (run : Option SlotRun) :
    takeWord s go run = { state := afterGo b s, data := go.data, run := none, stall := none } := by
  obtain ⟨addr, data, enables⟩ := go
  dsimp only at at_ full
  subst at_ full
  rw [takeWord_go running.2.1, takeGo_room running.2.1 room]
  rfl

/-- A directive that is taken leaves the windows apart (R159). -/
theorem windowInv_afterGo (running : Running b s) (room : s.tp.queue.length < 16) (windows : WindowInv s) :
    WindowInv (afterGo b s) := by
  have kept := highWindows_wordSteps.takeWord ⟨running.1, windows⟩ { addr := b + 28, data := 0, enables := 0xF } none
  rw [takeWord_afterGo running room rfl rfl] at kept
  exact kept.2

/-- The words from the go word on, the insertion queue with room: the directive is taken, and the words after it pass. -/
theorem takeWords_go (running : Running b s) (clear : QueueClear s.tp.queue b 32) (room : s.tp.queue.length < 16) {go : WordWrite}
    (at_ : go.addr = b + 28) (full : go.enables = 0xF) (after : List WordWrite)
    (outside : ∀ x ∈ after, x.enables ≠ 0 → OutsideWindows b (afterGo b s) x.addr) {p : WriteProgress} (hold : p.hold = 0) :
    ∃ held, Held (afterGo b s).tp.queue after 0 held ∧ takeWords (go :: after) p s =
      ({ p with taken := p.taken ++ go :: after, todo := [], stall := none, run := none, hold := held }, afterGo b s) := by
  have taken := takeWord_afterGo running room at_ full p.run
  have depth : holdDepth s.tp.queue go = 0 := holdDepth_clear (clear.sub (by omega) (by omega))
  obtain ⟨held, holds, rest⟩ := takeWords_unwatched (afterGo_base running) after
    { p with taken := p.taken ++ [go], run := none, hold := 0 } outside rfl
  refine ⟨held, holds, ?_⟩
  rw [takeWords_cons _ _ _ _ (by rw [taken]), taken, depth, hold]
  refine (rest : takeWords after _ _ = _).trans ?_
  rw [List.append_assoc]
  rfl

end

section

variable {b : Nat} {s : State} {w : WriteBurst} {before after : List WordWrite} {go : WordWrite} (free : PortFree b s)
  (clear : QueueClear s.tp.queue b 32) (wf : w.wf = true) (words : burstWords w = before ++ go :: after) (at_ : go.addr = b + 28)
  (low : ∀ x ∈ before, x.enables ≠ 0 → b ≤ x.addr)
include free clear wf words at_ low

/-- The words before the go word are latched, and hold the write for nothing. -/
theorem takeWords_beforeGo : takeWords (burstWords w) (newWrite w) s =
    takeWords (go :: after) { newWrite w with taken := before } (beforeGo b before s) := by
  have sorted := burstWords_ascending w
  rw [words, List.pairwise_append] at sorted
  obtain ⟨-, -, apart⟩ := sorted
  have mine {x : WordWrite} (hx : x ∈ before) : x ∈ burstWords w := by
    rw [words]
    exact List.mem_append_left _ hx
  have high : ∀ x ∈ before, x.addr + 4 ≤ b + 28 := fun x hx => at_ ▸ apart x hx go List.mem_cons_self
  obtain ⟨hold, held, taken⟩ := takeWords_mailbox free.1.2.1 (base_aligned free.1) before (newWrite w)
    (fun x hx => ⟨(burstWords_addr wf (mine hx)).2.2,
      fun written => Or.inl ⟨low x hx written, by have := high x hx; omega⟩, fun own => by have := high x hx; omega⟩) rfl
  have unheld : hold = 0 := held_eq_of_clear held fun e he x hx touches => by
    have written : x.enables ≠ 0 := by
      rintro unwritten
      obtain ⟨j, -, lane, -⟩ := touches
      rw [unwritten] at lane
      simp at lane
    exact not_touches_of_clear clear he (low x hx written) (by have := high x hx; omega) touches
  rw [words, takeWords_append _ _ _ _ (by rw [taken]), taken, unheld]
  exact takeWords_blind (go :: after) { newWrite w with taken := before } [] none _

omit clear low in
/-- The go word and the words after it are none of the latch. -/
theorem latchedBy_beforeGo : LatchedBy b (burstWords w) s.dd (beforeGo b before s).dd := by
  have sorted := burstWords_ascending w
  have behind : ∀ x ∈ go :: after, b + 28 ≤ x.addr := by
    rw [words, List.pairwise_append, List.pairwise_cons] at sorted
    intro x hx
    rcases List.mem_cons.mp hx with rfl | hx
    · exact Nat.le_of_eq at_.symm
    · have := sorted.2.1.1 x hx
      omega
  have all : (beforeGo b before s).dd = (burstWords w).foldl (mailTakes b) s.dd := by
    rw [words, List.foldl_append]
    refine (foldl_unchanged (mailTakes b) (go :: after) _ fun x hx => mailTakes_beside (fun inside => ?_) _).symm
    have := behind x hx
    omega
  rw [all]
  exact latchedBy_foldl (base_aligned free.1) (fun x hx => (burstWords_addr wf hx).2.2) (burstWords_ascending w) s.dd

omit wf words at_ low in
/-- The state in which the go word is reached is ready for its directive, if the part was. -/
theorem ready_beforeGo (holder : s.dd.holder = none) (room : s.tp.queue.length < 16) : DirectiveReady b (beforeGo b before s) := by
  have kept := congrArg DirectiveDecoder.holder (foldl_mailTakes_frame b before s.dd)
  exact ⟨free, clear, kept.trans holder, room⟩

/-- A write with a full go word, the insertion queue with room. -/
theorem arrive_go_room (full : go.enables = 0xF) (room : s.tp.queue.length < 16)
    (outside : ∀ x ∈ after, x.enables ≠ 0 → OutsideWindows b (afterGo b (beforeGo b before s)) x.addr) :
    ∃ hold, Held (afterGo b (beforeGo b before s)).tp.queue after 0 hold ∧
      s.arrive (.write (newWrite w)) = passedOrHeld hold w.addr.toNat (burstWords w) (afterGo b (beforeGo b before s)) := by
  obtain ⟨hold, held, taken⟩ := takeWords_go (s := beforeGo b before s) free.1 clear room at_ full after outside
    (p := { newWrite w with taken := before }) rfl
  refine ⟨hold, held, ?_⟩
  have port : (afterGo b (beforeGo b before s)).tp.upstream = [] := afterGo_upstream (s := beforeGo b before s) free.2
  rw [arrive_write free.2, takeWords_beforeGo free clear wf words at_ low, words]
  exact (congrArg (fun r : WriteProgress × State => settleWrite r.1 [] r.2) taken).trans
    (settleWrite_arrived port w.addr.toNat (before ++ go :: after) hold)

/-- A write with a full go word, the insertion queue full: it is stalled at its go word (R165). -/
theorem arrive_go_full (full : go.enables = 0xF) (queue : 16 ≤ s.tp.queue.length) : s.arrive (.write (newWrite w)) =
    { (beforeGo b before s).writeGo go.data with tp := { ((beforeGo b before s).writeGo go.data).tp with
      upstream := [.write { addr := w.addr.toNat, taken := before ++ [go], todo := after, run := none, hold := 0
                            stall := some .outcome }] } } := by
  have settled := settle_go_full (s := beforeGo b before s) free.1 (clear.sub (Nat.le_add_right _ _) (by omega)) queue go.data
    (p := { newWrite w with taken := before }) rfl after
  have own : go = { addr := b + 28, data := go.data, enables := 0xF } := by rw [← at_, ← full]
  rw [← own] at settled
  rw [arrive_write free.2, takeWords_beforeGo free clear wf words at_ low, settled,
    writeGo_full (s := beforeGo b before s) free clear queue]
  rfl

end

/-! ## The words after a go word in the control region -/

/-- A word of the control region beyond the mailbox lies in no window that a block watches. -/
theorem outsideWindows_of_control {b a : Nat} {s : State} (windows : WindowInv s) (base : s.tp.controlBase = some b)
    (aligned : b % 4 = 0) (word : a % 4 = 0) (low : b + 32 ≤ a) (high : a < b + 4096) : OutsideWindows b s a := by
  refine ⟨Or.inr low, fun r ring => ?_, fun w window => ?_⟩
  · have apart := windows.captureControl b r base ring
    rw [Apart] at apart
    omega
  · have apart := windows.imageControl b w base window
    rw [Apart] at apart
    omega

/-- Words one of which is of the last record of the queue are held by it. -/
theorem held_by_last {q : List QueueEntry} {e : QueueEntry} {ws : List WordWrite} {hold : Nat} (held : Held (q ++ [e]) ws 0 hold)
    {x : WordWrite} (hx : x ∈ ws) (touches : Touches e x) : hold = (q ++ [e]).length := by
  obtain ⟨-, least, most⟩ := held
  have last := least q.length e (by simp) x hx touches
  rw [List.length_append, List.length_singleton]
  obtain none_ | ⟨i, y, place, -, rfl⟩ := most
  · omega
  · have := (List.getElem?_eq_some_iff.mp place).1
    rw [List.length_append, List.length_singleton] at this
    omega

/-- A written word of four bytes of a record is of the record. -/
theorem touches_of_written {e : QueueEntry} {x : WordWrite} (written : x.enables ≠ 0) (low : e.addr ≤ x.addr)
    (high : x.addr + 4 ≤ e.addr + 32) : Touches e x := by
  have lane : ∃ j, j < 4 ∧ x.enables.getLsbD j = true := by
    by_contra none_
    push Not at none_
    refine written (BitVec.eq_of_getLsbD_eq fun j hj => ?_)
    simpa [hj] using none_ j hj
  obtain ⟨j, hj, lane⟩ := lane
  exact ⟨j, hj, lane, by omega, by omega⟩

/-- Settles O44: a write without a go word, one whose words are all of the mailbox, and one that runs on from its go word. -/
theorem mailboxWriteLatchesWords : Obligations.MailboxWriteLatchesWords := by
  intro b s w wf latches
  refine ⟨fun free place no_go => ?_, fun go ready place found => ?_,
    fun before after go free clear holder windows words at_ full place => ?_⟩
  · obtain ⟨hold, held, arrives⟩ := arrive_mailbox free wf place no_go
    have latched : LatchedBy b (burstWords w) s.dd ((burstWords w).foldl (mailTakes b) s.dd) :=
      latchedBy_foldl (base_aligned free.1) (fun x hx => (burstWords_addr wf hx).2.2) (burstWords_ascending w) s.dd
    refine ⟨_, hold, (exec_write free.1.1 w (by simp)).trans (congrArg Host.Outcome.next arrives), held, ?_, ?_⟩
    · rw [passedOrHeld, passedOrHeld]
      split <;> rfl
    · rw [passedOrHeld]
      split
      · exact latched
      · exact latched
  · obtain ⟨x, hx, at_, full, rfl⟩ := found
    obtain ⟨free, clear, holder, room⟩ := ready
    obtain ⟨before, after, words⟩ := List.append_of_mem hx
    have low : ∀ y ∈ before, y.enables ≠ 0 → b ≤ y.addr := fun y hy written =>
      (place y (by rw [words]; exact List.mem_append_left _ hy) written).1
    have unwritten : ∀ y ∈ after, y.enables = 0 := by
      intro y hy
      by_contra written
      have sorted := burstWords_ascending w
      rw [words, List.pairwise_append, List.pairwise_cons] at sorted
      have behind := sorted.2.1.1 y hy
      have inside := place y (by rw [words]; exact List.mem_append_right _ (List.mem_cons_of_mem _ hy)) written
      omega
    obtain ⟨hold, held, arrives⟩ := arrive_go_room free clear wf words at_ low full room
      fun y hy written => absurd (unwritten y hy) written
    have unheld : hold = 0 := held_eq_of_clear held fun e he y hy touches => by
      obtain ⟨j, -, lane, -⟩ := touches
      rw [unwritten y hy] at lane
      simp at lane
    have ready' := ready_beforeGo (before := before) free clear holder room
    refine ⟨(beforeGo b before s).dd, (beforeGo b before s).writeGo x.data, latchedBy_beforeGo free wf words at_,
      exec_unknownKind (s := beforeGo b before s) free.1.1 x.data, ?_⟩
    rw [exec_write free.1.1 w (by simp), arrives, unheld, passedOrHeld, if_pos rfl, ← writeGo_afterGo ready' x.data]
    rfl
  · have sorted := burstWords_ascending w
    rw [words, List.pairwise_append, List.pairwise_cons] at sorted
    obtain ⟨-, ⟨behind, -⟩, -⟩ := sorted
    have low : ∀ y ∈ before, y.enables ≠ 0 → b ≤ y.addr := fun y hy written => (place y (List.mem_append_left _ hy) written).1
    refine ⟨(beforeGo b before s).dd, (beforeGo b before s).writeGo go.data, latchedBy_beforeGo free wf words at_,
      exec_unknownKind (s := beforeGo b before s) free.1.1 go.data, fun room => ?_, fun queue => ?_⟩
    · have aligned := base_aligned free.1
      have word : ∀ x ∈ after, x.addr % 4 = 0 := fun x hx =>
        (burstWords_addr wf (by rw [words]; exact List.mem_append_right _ (List.mem_cons_of_mem _ hx))).2.2
      have inv : WindowInv (afterGo b (beforeGo b before s)) := windowInv_afterGo (s := beforeGo b before s) free.1 room
        (windowInv_of_same windows ⟨rfl, rfl, rfl, rfl, rfl, rfl⟩)
      obtain ⟨hold, held, arrives⟩ := arrive_go_room free clear wf words at_ low full room fun x hx written =>
        outsideWindows_of_control inv (afterGo_base (s := beforeGo b before s) free.1) aligned (word x hx)
          (by have := behind x hx; omega) (place x (List.mem_append_right _ hx) written).2
      have alone := writeGo_afterGo (ready_beforeGo (before := before) free clear holder room) go.data
      have queue : ((beforeGo b before s).writeGo go.data).tp.queue = (afterGo b (beforeGo b before s)).tp.queue := by
        rw [← alone]
      refine ⟨hold, by rw [queue]; exact held, fun touched => ?_, ?_⟩
      · obtain ⟨x, hx, written, near⟩ := touched
        rw [queue]
        have := behind x hx
        have := word x hx
        exact held_by_last held hx (touches_of_written written (by dsimp only; omega) (by dsimp only; omega))
      · rw [exec_write free.1.1 w (by simp), arrives, ← alone]
        rfl
    · rw [exec_write free.1.1 w (by simp), arrive_go_full free clear wf words at_ low full queue]

end Sys2Proof.Proofs
end

section
/-! The words of a wedge frame (sections 1.2, 1.5): what each word does by its place in the frame, how a frame completes, and the
fields of its annotation words (section 11.1). -/

namespace Sys2Proof.Proofs

open Sys2Proof.Machine

/-! ## The annotation words (section 11.1) -/

/-- A signed field of 10 bits reads back the value it holds. -/
theorem toInt_signed_ten {v : Int} (low : -512 ≤ v) (high : v ≤ 511) : (BitVec.ofInt 10 v).toInt = v := by
  rw [BitVec.toInt_ofInt, Int.bmod_def]
  norm_num
  split <;> omega

theorem annotation5_fields (r : Reduction) (follow : FollowState) (low : -512 ≤ r.offset) (high : r.offset ≤ 511) :
    let w := annotation5 r follow
    (w.extractLsb' 0 10).toInt = r.offset ∧ (w.extractLsb' 10 1).toNat = r.region.code ∧
    (w.extractLsb' 11 3).toNat = r.grade.code ∧ (w.extractLsb' 14 3).toNat = follow.code ∧
    (w.extractLsb' 17 5).toNat = r.zone.val ∧ w.getLsbD 22 = r.zoneUnknown ∧ w.extractLsb' 23 9 = 0 := by
  have region : r.region.code < 2 := by cases r.region <;> decide
  have grade : r.grade.code < 8 := by cases r.grade <;> decide
  have state : follow.code < 8 := by cases follow <;> decide
  refine ⟨?_, ?_, ?_, ?_, ?_, ?_, ?_⟩
  · rw [← toInt_signed_ten low high]
    simp (disch := omega) only [annotation5, extract_or, extract_placeInt, extract_place_beside, extract_placeFlag_beside]
    simp
  · simp (disch := omega) only [annotation5, extract_or, extract_place, extract_placeInt_beside, extract_place_beside,
      extract_placeFlag_beside]
    simp [Nat.mod_eq_of_lt region]
  · simp (disch := omega) only [annotation5, extract_or, extract_place, extract_placeInt_beside, extract_place_beside,
      extract_placeFlag_beside]
    simp [Nat.mod_eq_of_lt grade]
  · simp (disch := omega) only [annotation5, extract_or, extract_place, extract_placeInt_beside, extract_place_beside,
      extract_placeFlag_beside]
    simp [Nat.mod_eq_of_lt state]
  · simp (disch := omega) only [annotation5, extract_or, extract_place, extract_placeInt_beside, extract_place_beside,
      extract_placeFlag_beside]
    simp
  · simp only [annotation5, BitVec.getLsbD_or, getLsbD_place, getLsbD_placeFlag, getLsbD_placeInt]
    simp
  · simp (disch := omega) only [annotation5, extract_or, extract_placeInt_beside, extract_place_beside, extract_placeFlag_beside]
    rfl

theorem annotation6_fields (accepted : Bool) {n : Nat} (state : SweepState) (count : n ≤ 4096) :
    let w := annotation6 accepted n state
    (w.extractLsb' 0 13).toNat = n ∧ w.extractLsb' 13 3 = 0 ∧ w.getLsbD 16 = accepted ∧ w.getLsbD 17 = false ∧
    (w.extractLsb' 18 2).toNat = state.code ∧ w.extractLsb' 20 12 = 0 := by
  have code : state.code < 4 := by cases state <;> decide
  refine ⟨?_, ?_, ?_, ?_, ?_, ?_⟩
  · simp (disch := omega) only [annotation6, extract_or, extract_place, extract_place_beside, extract_placeFlag_beside]
    simp [Nat.mod_eq_of_lt (show n < 8192 by omega)]
  · simp (disch := omega) only [annotation6, extract_or, extract_place_beside, extract_placeFlag_beside]
    rfl
  · simp only [annotation6, BitVec.getLsbD_or, getLsbD_place, getLsbD_placeFlag]
    simp
  · simp only [annotation6, BitVec.getLsbD_or, getLsbD_place, getLsbD_placeFlag]
    simp
  · simp (disch := omega) only [annotation6, extract_or, extract_place, extract_place_beside, extract_placeFlag_beside]
    simp [Nat.mod_eq_of_lt code]
  · simp (disch := omega) only [annotation6, extract_or, extract_place_beside, extract_placeFlag_beside]
    rfl

/-- A field narrower than its word leaves the bits above it 0. -/
theorem extract_setWidth_beside (x : BitVec 17) {a m : Nat} (h : 17 ≤ a) : ((x.setWidth 32).extractLsb' a m) = 0 := by
  apply BitVec.eq_of_getLsbD_eq
  intro i hi
  simp [BitVec.getLsbD_of_ge x (a + i) (by omega)]

theorem annotation7_fields (signalSum : Nat) {gap : Nat} (few : gap ≤ 1023) :
    let w := annotation7 signalSum gap
    (signalSum ≤ 131070 → (w.extractLsb' 0 17).toNat = signalSum) ∧
    (w.extractLsb' 17 10).toNat = gap ∧ w.extractLsb' 27 5 = 0 := by
  refine ⟨fun narrow => ?_, ?_, ?_⟩
  · have field : signalField signalSum = BitVec.ofNat 17 signalSum := if_pos narrow
    have whole : ((BitVec.ofNat 17 signalSum).setWidth 32).extractLsb' 0 17 = BitVec.ofNat 17 signalSum := by
      apply BitVec.eq_of_getLsbD_eq
      intro i hi
      simp [hi, show i < 32 by omega]
    rw [annotation7, field, extract_or, extract_place_beside _ (by omega), whole, BitVec.ofNat_eq_ofNat, BitVec.or_zero,
      BitVec.toNat_ofNat]
    exact Nat.mod_eq_of_lt (by omega)
  · rw [annotation7, extract_or, extract_setWidth_beside _ (by omega), extract_place _ (by omega), BitVec.ofNat_eq_ofNat,
      BitVec.zero_or, BitVec.toNat_ofNat]
    exact Nat.mod_eq_of_lt (by omega)
  · rw [annotation7, extract_or, extract_setWidth_beside _ (by omega), extract_place_beside _ (by omega)]
    rfl

/-! ## The completion of a frame (R20) -/

/-- A sweep does not look into the Frame Reducer. -/
theorem sweepFrame_fr (s : State) (f : CompletedFrame) : (s.sweepFrame f).fr = s.fr :=
  (sweepSteps_of_pieces (P := fun t : State => t.fr = s.fr) (fun _ _ h => h) (fun _ _ h => h) (fun _ _ _ h => h)
    fun t r h _ => by rw [enterResult_eq]; exact h).sweepFrame rfl f

/-- A frame completes at the Follow Monitor, then at the Sweep Controller, then in the bad-wedge count. -/
theorem completeSeen_eq (s : State) (f : FrameRecord) (r : Reduction) :
    let judged := followFrame s.fr.wpr s.fr.gapLimit s.fm (seenFrame f r)
    let led : State := { s with
      fm := judged.fm
      ra := if judged.noLock then s.ra.raise .noLock { place := none, a := 2 ^ f.head.val, b := 0 } else s.ra }
    let swept := led.sweepFrame
      { head := f.head, reduction := r, amplitude := f.amplitude, follow := (judged.fm.record f.head).state
        missed := judged.missed, slip := judged.slip }
    s.completeSeen f r =
      (if s.fr.wpr ≤ f.wedge then { swept with
          fr := { swept.fr with badWedge := min 65535 (swept.fr.badWedge + 1) }
          ra := swept.ra.raise .frameFault { place := none, a := 0, b := 0 } }
        else swept, judged.gap) := by
  intro judged led swept
  have follow : s.followStep (seenFrame f r) = (led, judged) := by
    rw [State.followStep]
    refine congrArg (·, judged) ?_
    change (if judged.noLock then _ else _) = led
    cases lock : judged.noLock with
    | true => simp only [led, lock, if_true]; rfl
    | false => simp only [led, lock, Bool.false_eq_true, if_false]; rfl
  have wpr : swept.fr.wpr = s.fr.wpr := congrArg FrameReducer.wpr (sweepFrame_fr led _)
  rw [State.completeSeen, follow]
  change (if swept.fr.wpr ≤ f.wedge then swept.countBadWedge else swept, judged.gap) = _
  rw [wpr]
  rfl

/-- The completion of a frame: nothing for a FOREIGN one (R11, R20). -/
def completion (s : State) (f : FrameRecord) (r : Reduction) : State × Nat :=
  if r.grade = .foreign then (s, 0) else s.completeSeen f r

/-- The follow state reported in word 5 (R18). -/
def shownFollow (s : State) (f : FrameRecord) (r : Reduction) : FollowState :=
  if r.grade = .foreign then .unseen else answerFollow s.fr.wpr s.fr.gapLimit s.fm (seenFrame f r)

/-- The state once a frame is complete: no frame is left (R20). -/
def frameEnded (s : State) (f : FrameRecord) (r : Reduction) : State :=
  { (completion s f r).1 with fr := { (completion s f r).1.fr with frame := none } }

/-- The state with a frame in the frame assembly record. -/
def frameState (s : State) (f : FrameRecord) : State := { s with fr := { s.fr with frame := some f } }

/-! ## The words of a frame (R4, R18 to R20) -/

section

variable {s : State} {x : WordWrite} {run : Option SlotRun} {f : FrameRecord}

theorem takeFrameWord_latch (low : 1 ≤ f.expects) (high : f.expects ≤ 4) :
    takeFrameWord s x run f = passWord (frameState s (latchFrameWord f x.data)) x run := by
  obtain h | h | h | h : f.expects = 1 ∨ f.expects = 2 ∨ f.expects = 3 ∨ f.expects = 4 := by omega
  all_goals
    rw [takeFrameWord, h]
    rfl

theorem takeFrameWord_five (h : f.expects = 5) :
    let r := reduceFrame s.fr (s.fm.record f.head).floor (s.fm.record f.head).signal f
    takeFrameWord s x run f =
      { state := frameState s { f with reduction := some r, shown := shownFollow s f r, expects := 6 }
        data := annotation5 r (shownFollow s f r), run := run, stall := none } := by
  rw [takeFrameWord, h]
  rfl

theorem takeFrameWord_six {r : Reduction} (h : f.expects = 6) (reduced : f.reduction = some r) :
    let answer := answerSweep s.sc s.tsm.spindle f.head r f.shown
    takeFrameWord s x run f =
      { state := frameState s { f with expects := 7 }, data := annotation6 answer.1 answer.2.1 answer.2.2, run := run, stall := none } := by
  rw [takeFrameWord, h]
  dsimp only
  rw [answerWord6, reduced]
  rfl

theorem takeFrameWord_seven {r : Reduction} (h : f.expects = 7) (reduced : f.reduction = some r) : takeFrameWord s x run f =
    { state := frameEnded s f r, data := annotation7 r.signalSum (completion s f r).2, run := run
      stall := if s.sc.holder.isNone && (completion s f r).1.sc.holder.isSome then some .result else none } := by
  rw [takeFrameWord, h]
  dsimp only
  rw [State.completeFrame, reduced]
  rfl

end

/-! ## A word of a capture slot (R3 to R6) -/

theorem full_iff {x : WordWrite} : x.full = true ↔ x.enables = 0xF := by
  simp [WordWrite.full]

section

variable {s : State} {x : WordWrite} {prior : Option SlotRun} {slot n : Nat} {f : FrameRecord}

/-- A full word 0 starts a frame; one that is present is torn. -/
theorem takeCapture_start (full : x.enables = 0xF) (first : n = 0) : takeCapture s x prior slot n =
    passWord (frameState s.abandonFrame (startFrame slot x.data)) x (some (slotRun prior slot)) :=
  if_pos (by rw [full_iff.mpr full, first]; rfl)

theorem takeCapture_later (h : ¬ (x.enables = 0xF ∧ n = 0)) : takeCapture s x prior slot n =
    match s.fr.frame with
    | none => takeStray s x (slotRun prior slot)
    | some f =>
      if f.slot = slot then
        if x.full && decide (n = f.expects) then takeFrameWord s x (some (slotRun prior slot)) f
        else passWord s.tearFrame x (some { slotRun prior slot with counted := true })
      else takeStray s x (slotRun prior slot) := by
  refine if_neg fun start => h ?_
  rw [Bool.and_eq_true, decide_eq_true_eq, full_iff] at start
  exact start

/-- The expected word, full, is taken. -/
theorem takeCapture_next (present : s.fr.frame = some f) (here : f.slot = slot) (full : x.enables = 0xF) (next : n = f.expects)
    (later : n ≠ 0) : takeCapture s x prior slot n = takeFrameWord s x (some (slotRun prior slot)) f := by
  rw [takeCapture_later fun start => later start.2, present]
  dsimp only
  rw [if_pos here, if_pos (by rw [full_iff.mpr full, next, decide_eq_true rfl]; rfl)]

/-- Another word of the frame's slot tears it. -/
theorem takeCapture_tears (present : s.fr.frame = some f) (here : f.slot = slot) (start : ¬ (x.enables = 0xF ∧ n = 0))
    (other : ¬ (x.enables = 0xF ∧ n = f.expects)) : takeCapture s x prior slot n =
      passWord s.tearFrame x (some { slotRun prior slot with counted := true }) := by
  rw [takeCapture_later start, present]
  dsimp only
  rw [if_pos here, if_neg]
  rw [Bool.and_eq_true, decide_eq_true_eq, full_iff]
  exact other

/-- A word of a slot without a frame is a stray. -/
theorem takeCapture_stray (absent : ∀ f, s.fr.frame = some f → f.slot ≠ slot) (start : ¬ (x.enables = 0xF ∧ n = 0)) :
    takeCapture s x prior slot n = takeStray s x (slotRun prior slot) := by
  rw [takeCapture_later start]
  cases present : s.fr.frame with
  | none => rfl
  | some f => exact if_neg (absent f present)

end

end Sys2Proof.Proofs
end

section
/-! CAPTURE_WRITE of a frame (sections 1.2, 1.5, 5.8): word by word, and whole. -/

namespace Sys2Proof.Proofs

open Sys2Proof.Machine

/-! ## Words taken one after another, none of them held -/

/-- A word that overlaps no record is taken, and the write goes on behind it. -/
theorem takeWords_take {s : State} {x : WordWrite} {p : WriteProgress} {t : TakenWord} (taken : takeWord s x p.run = t)
    (stall : t.stall = none) (depth : holdDepth s.tp.queue x = 0) (rest : List WordWrite) : takeWords (x :: rest) p s =
      takeWords rest { p with taken := p.taken ++ [{ x with data := t.data }], run := t.run } t.state := by
  rw [takeWords_cons _ _ _ _ (by rw [taken, stall]), taken, depth, Nat.max_zero]

/-- A word that stalls the write and overlaps no record. -/
theorem takeWords_take_stall {s : State} {x : WordWrite} {p : WriteProgress} {t : TakenWord} (taken : takeWord s x p.run = t)
    {y : Stall} (stall : t.stall = some y) (depth : holdDepth s.tp.queue x = 0) (rest : List WordWrite) : takeWords (x :: rest) p s =
      ({ p with taken := p.taken ++ [{ x with data := t.data }], run := t.run, todo := rest, stall := some y }, t.state) := by
  rw [takeWords_stall _ _ _ _ y (by rw [taken, stall]), taken, depth, Nat.max_zero]

/-- A word that is not written overlaps no record. -/
theorem holdDepth_unwritten (q : List QueueEntry) {x : WordWrite} (h : x.enables = 0) : holdDepth q x = 0 :=
  held_eq_of_clear (holdDepth_held q x) fun e _ y hy touches => by
    obtain ⟨j, -, lane, -⟩ := touches
    rw [List.mem_singleton.mp hy, h] at lane
    simp at lane

/-- A word that is not written passes, and nothing takes it. -/
theorem takeWords_unwritten {s : State} {x : WordWrite} (h : x.enables = 0) (p : WriteProgress) (rest : List WordWrite) :
    takeWords (x :: rest) p s = takeWords rest { p with taken := p.taken ++ [x] } s :=
  takeWords_take (takeWord_unwritten h p.run) rfl (holdDepth_unwritten _ h) rest

/-! ## A write of one word of a slot -/

section

variable {a n : Nat} (place : a % 8 = 0 ∧ a + 32 ≤ 4294967296) (small : n < 8)
include place small

theorem beatAddress : firstBeat (BitVec.ofNat 32 (a + 8 * (n / 2))) = a + 8 * (n / 2) ∧
    (BitVec.ofNat 32 (a + 8 * (n / 2))).toNat = a + 8 * (n / 2) := by
  rw [firstBeat, BitVec.toNat_ofNat]
  omega

/-- The two words of a beat of the slot. -/
theorem slotBeat_words (upper lower : Word) (lanes : BitVec 8) :
    burstWords { addr := BitVec.ofNat 32 (a + 8 * (n / 2)), beats := [{ data := upper ++ lower, lanes := lanes }] } =
      [{ addr := a + 8 * (n / 2), data := lower, enables := lanes.extractLsb' 0 4 },
       { addr := a + 8 * (n / 2) + 4, data := upper, enables := lanes.extractLsb' 4 4 }] := by
  rw [← beatOf_append, burstWords, (beatAddress place small).1, beatWords, Beat.words, beatOf_low, beatOf_high]
  rfl

/-- The words of a write of one word of the slot: the word itself, and the one beside it that is not written. -/
theorem wordBurst_words (other data : Word) : burstWords (wordBurst a n other data) =
    if n % 2 = 0 then [{ addr := a + 4 * n, data := data, enables := 0xF }, { addr := a + 4 * n + 4, data := other, enables := 0 }]
    else [{ addr := a + 8 * (n / 2), data := other, enables := 0 }, { addr := a + 4 * n, data := data, enables := 0xF }] := by
  rw [wordBurst]
  by_cases even : n % 2 = 0
  · have at_ : a + 8 * (n / 2) = a + 4 * n := by omega
    rw [if_pos even, if_pos even, if_pos even, slotBeat_words place small, at_]
    rfl
  · have at_ : a + 8 * (n / 2) + 4 = a + 4 * n := by omega
    rw [if_neg even, if_neg even, if_neg even, slotBeat_words place small, at_]
    rfl

/-- The word that a write of one word writes is taken, and the one beside it passes. -/
theorem takeWords_wordBurst {s : State} {p : WriteProgress} {t : TakenWord} (other data : Word) (run : p.run = none)
    (taken : takeWord s { addr := a + 4 * n, data := data, enables := 0xF } none = t) (stall : t.stall = none)
    (depth : holdDepth s.tp.queue { addr := a + 4 * n, data := data, enables := 0xF } = 0) :
    takeWords (burstWords (wordBurst a n other data)) p s =
      ({ p with taken := p.taken ++ burstWords (wordBurst a n other t.data), todo := [], stall := none, run := t.run }, t.state) := by
  rw [← run] at taken
  rw [wordBurst_words place small, wordBurst_words place small]
  by_cases even : n % 2 = 0
  · rw [if_pos even, if_pos even, takeWords_take taken stall depth, takeWords_unwritten rfl, takeWords_nil, List.append_assoc]
    rfl
  · rw [if_neg even, if_neg even, takeWords_unwritten rfl,
      takeWords_take (p := { p with taken := p.taken ++ [{ addr := a + 8 * (n / 2), data := other, enables := 0 }] }) taken stall depth,
      takeWords_nil, List.append_assoc]
    rfl

/-- The same, when the word stalls the write: it is the upper word of its beat. -/
theorem takeWords_wordBurst_stall {s : State} {p : WriteProgress} {t : TakenWord} (other data : Word) (run : p.run = none)
    (taken : takeWord s { addr := a + 4 * n, data := data, enables := 0xF } none = t) {y : Stall} (stall : t.stall = some y)
    (odd : n % 2 ≠ 0) (depth : holdDepth s.tp.queue { addr := a + 4 * n, data := data, enables := 0xF } = 0) :
    takeWords (burstWords (wordBurst a n other data)) p s =
      ({ p with taken := p.taken ++ burstWords (wordBurst a n other t.data), todo := [], stall := some y, run := t.run }, t.state) := by
  rw [← run] at taken
  rw [wordBurst_words place small, wordBurst_words place small, if_neg odd, if_neg odd, takeWords_unwritten rfl,
    takeWords_take_stall (p := { p with taken := p.taken ++ [{ addr := a + 8 * (n / 2), data := other, enables := 0 }] }) taken stall depth,
    List.append_assoc]
  rfl

end

/-! ## A capture slot -/

/-- A slot of the capture ring at a free port, no queued record in it: its place, and what its words are decoded as. -/
structure SlotReady (b : Nat) (s : State) (ring : CaptureRing) (slot : Nat) : Prop where
  free : PortFree b s
  windows : WindowInv s
  placed : s.tp.captureRing = some ring
  inside : slot < ring.slots
  clear : QueueClear s.tp.queue (ring.base + 32 * slot) 32

section

variable {b : Nat} {s : State} {ring : CaptureRing} {slot : Nat} (ready : SlotReady b s ring slot)
include ready

theorem slot_place : (ring.base + 32 * slot) % 8 = 0 ∧ ring.base + 32 * slot + 32 ≤ 4294967296 := by
  have placed := ready.windows.capture ring ready.placed
  have := ready.inside
  omega

/-- A written word of the slot is taken by the Frame Reducer. -/
theorem takeWord_slot {n : Nat} (small : n < 8) {x : WordWrite} (at_ : x.addr = ring.base + 32 * slot + 4 * n) (written : x.enables ≠ 0)
    (run : Option SlotRun) : takeWord s x run = takeCapture s x run slot n := by
  have apart := ready.windows.captureControl b ring ready.free.1.2.1 ready.placed
  have window := decodeWrite_capture s.ip ready.free.1.2.1 ready.placed ready.inside small apart
  rw [← at_] at window
  exact takeWord_capture written window run

theorem depth_slot {n : Nat} (small : n < 8) {x : WordWrite} (at_ : x.addr = ring.base + 32 * slot + 4 * n) :
    holdDepth s.tp.queue x = 0 :=
  holdDepth_clear (ready.clear.sub (by omega) (by omega))

/-- The slot stands while a frame is assembled. -/
theorem slotReady_frameState (f : FrameRecord) : SlotReady b (frameState s f) ring slot where
  free := ready.free
  windows := windowInv_of_same ready.windows ⟨rfl, rfl, rfl, rfl, rfl, rfl⟩
  placed := ready.placed
  inside := ready.inside
  clear := ready.clear

/-- The next word of the slot's frame, full. -/
theorem takeWord_next {f : FrameRecord} (present : s.fr.frame = some f) (here : f.slot = slot) {n : Nat} (expected : n = f.expects)
    (low : 1 ≤ n) (high : n ≤ 7) (data : Word) (run : Option SlotRun) :
    takeWord s { addr := ring.base + 32 * slot + 4 * n, data := data, enables := 0xF } run =
      takeFrameWord s { addr := ring.base + 32 * slot + 4 * n, data := data, enables := 0xF } (some (slotRun run slot)) f := by
  rw [takeWord_slot ready (n := n) (by omega) rfl (show (0xF : BitVec 4) ≠ 0 by decide)]
  exact takeCapture_next present here rfl expected (by omega)

end

/-! ## One word of a frame -/

/-- The state after a write of one word of a slot has passed with this word, its block's state being `u`. -/
def onward (s : State) (a n : Nat) (other data : Word) (u : State) : State :=
  { u with
    tp := { u.tp with outstanding := u.tp.outstanding ++ [.write (a + 8 * (n / 2))] }
    ports := { s.ports with down := s.ports.down ++ [.write (a + 8 * (n / 2)) (burstWords (wordBurst a n other data))] } }

section

variable {b : Nat} {s : State} {ring : CaptureRing} {f : FrameRecord} (ready : SlotReady b s ring f.slot) (present : s.fr.frame = some f)
  (low : 1 ≤ f.expects) (high : f.expects ≤ 7)
include ready present low high

omit present low high in
/-- The ports stand while a word is taken. -/
theorem takeFrameWord_ports (x : WordWrite) (run : Option SlotRun) :
    (takeFrameWord s x run f).state.ports = s.ports ∧ (takeFrameWord s x run f).state.tp.upstream = [] :=
  (portsStand_frameSteps (ports := s.ports) (upstream := [])).takeFrameWord ⟨rfl, ready.free.2⟩ x run f

/-- A word of a frame that does not stall the write passes with what the frame makes of it. -/
theorem exec_frameWord {t : TakenWord} (other data : Word)
    (taken : takeFrameWord s { addr := ring.base + 32 * f.slot + 4 * f.expects, data := data, enables := 0xF }
      (some { slot := f.slot, counted := false }) f = t) (stall : t.stall = none) :
    exec (.captureWrite (wordBurst (ring.base + 32 * f.slot) f.expects other data)) s =
      .next (onward s (ring.base + 32 * f.slot) f.expects other t.data t.state) := by
  have place := slot_place ready
  have small : f.expects < 8 := by omega
  have word := takeWord_next ready present rfl rfl low high data none
  have run : slotRun none f.slot = { slot := f.slot, counted := false } := rfl
  rw [run, taken] at word
  obtain ⟨ports, upstream⟩ := takeFrameWord_ports ready
    { addr := ring.base + 32 * f.slot + 4 * f.expects, data := data, enables := 0xF } (some { slot := f.slot, counted := false })
  rw [taken] at ports upstream
  have through := takeWords_wordBurst (p := newWrite (wordBurst (ring.base + 32 * f.slot) f.expects other data)) place small other data rfl
    word stall (depth_slot ready small rfl)
  have addr := (beatAddress place small).2
  rw [exec_write ready.free.1.1 _ List.mem_cons_self, arrive_write ready.free.2, through, settleWrite_passes rfl rfl, onward, ← addr, ← ports,
    ← upstream]
  rfl

/-- A word of a frame that stalls the write. -/
theorem exec_frameWord_stall {t : TakenWord} (other data : Word)
    (taken : takeFrameWord s { addr := ring.base + 32 * f.slot + 4 * f.expects, data := data, enables := 0xF }
      (some { slot := f.slot, counted := false }) f = t) {y : Stall} (stall : t.stall = some y) (odd : f.expects % 2 ≠ 0) :
    exec (.captureWrite (wordBurst (ring.base + 32 * f.slot) f.expects other data)) s = .next { t.state with
      tp := { t.state.tp with upstream := [.write
        { addr := ring.base + 32 * f.slot + 8 * (f.expects / 2)
          taken := burstWords (wordBurst (ring.base + 32 * f.slot) f.expects other t.data), todo := []
          run := t.run, hold := 0, stall := some y }] } } := by
  have place := slot_place ready
  have small : f.expects < 8 := by omega
  have word := takeWord_next ready present rfl rfl low high data none
  have run : slotRun none f.slot = { slot := f.slot, counted := false } := rfl
  rw [run, taken] at word
  have through := takeWords_wordBurst_stall (p := newWrite (wordBurst (ring.base + 32 * f.slot) f.expects other data)) place small other
    data rfl word stall odd (depth_slot ready small rfl)
  have addr := (beatAddress place small).2
  rw [exec_write ready.free.1.1 _ List.mem_cons_self, arrive_write ready.free.2, through, settleWrite_stays (Or.inl (Option.some_ne_none y)),
    ← addr]
  rfl

end

end Sys2Proof.Proofs
end

section
/-! A whole frame in one burst, and the statement about CAPTURE_WRITE of a frame (sections 1.2, 1.5, 5.8). -/

namespace Sys2Proof.Proofs

open Sys2Proof.Machine

/-- A write all of whose words have been taken stalls for the result record of the close that its frame made (R165). -/
theorem completion_stall {s t : Option ResultRecord} :
    (t = none ∨ s ≠ none → (if s.isNone && t.isSome then some Stall.result else none) = none) ∧
    (t ≠ none → s = none → (if s.isNone && t.isSome then some Stall.result else none) = some .result) := by
  cases s <;> cases t <;> simp

/-! ## The words of a frame in one slot run -/

section

variable {b : Nat} {s : State} {ring : CaptureRing} {slot : Nat} (ready : SlotReady b s ring slot)
include ready

/-- Word 0 starts the frame and its slot run. -/
theorem takeWords_start (absent : s.fr.frame = none) (data : Word) {p : WriteProgress} (run : p.run = none) (rest : List WordWrite) :
    takeWords ({ addr := ring.base + 32 * slot + 4 * 0, data := data, enables := 0xF } :: rest) p s =
      takeWords rest { p with
        taken := p.taken ++ [{ addr := ring.base + 32 * slot + 4 * 0, data := data, enables := 0xF }]
        run := some { slot := slot, counted := false } } (frameState s (startFrame slot data)) := by
  have taken : takeWord s { addr := ring.base + 32 * slot + 4 * 0, data := data, enables := 0xF } p.run =
      passWord (frameState s (startFrame slot data)) { addr := ring.base + 32 * slot + 4 * 0, data := data, enables := 0xF }
        (some { slot := slot, counted := false }) := by
    have kept : s.abandonFrame = s := by rw [State.abandonFrame, absent]
    rw [run, takeWord_slot ready (n := 0) (by omega) rfl (show (0xF : BitVec 4) ≠ 0 by decide), takeCapture_start rfl rfl, kept]
    rfl
  exact takeWords_take taken rfl (depth_slot ready (n := 0) (by omega) rfl) rest

variable {f : FrameRecord} (here : f.slot = slot) {p : WriteProgress} (run : p.run = some { slot := slot, counted := false })
include here run

/-- The next word of the frame in the slot run that word 0 began. -/
theorem takeWord_run {n : Nat} (expected : n = f.expects) (low : 1 ≤ n) (high : n ≤ 7) (data : Word) :
    takeWord (frameState s f) { addr := ring.base + 32 * slot + 4 * n, data := data, enables := 0xF } p.run =
      takeFrameWord (frameState s f) { addr := ring.base + 32 * slot + 4 * n, data := data, enables := 0xF }
        (some { slot := slot, counted := false }) f := by
  have same : slotRun p.run slot = { slot := slot, counted := false } := by rw [run]; exact if_pos rfl
  rw [takeWord_next (slotReady_frameState ready f) rfl here expected low high data, same]

theorem takeWords_latch {n : Nat} (expected : n = f.expects) (low : 1 ≤ n) (high : n ≤ 4) (data : Word) (rest : List WordWrite) :
    takeWords ({ addr := ring.base + 32 * slot + 4 * n, data := data, enables := 0xF } :: rest) p (frameState s f) =
      takeWords rest { p with
        taken := p.taken ++ [{ addr := ring.base + 32 * slot + 4 * n, data := data, enables := 0xF }] }
        (frameState s (latchFrameWord f data)) := by
  have taken := takeWord_run ready here run expected low (by omega) data
  rw [takeFrameWord_latch (by omega) (by omega)] at taken
  refine (takeWords_take taken rfl (depth_slot (slotReady_frameState ready f) (by omega) rfl) rest).trans ?_
  rw [passWord, ← run]
  rfl

theorem takeWords_five (expected : f.expects = 5) (data : Word) (rest : List WordWrite) :
    let r := reduceFrame s.fr (s.fm.record f.head).floor (s.fm.record f.head).signal f
    takeWords ({ addr := ring.base + 32 * slot + 4 * 5, data := data, enables := 0xF } :: rest) p (frameState s f) =
      takeWords rest { p with
        taken := p.taken ++ [{ addr := ring.base + 32 * slot + 4 * 5, data := annotation5 r (shownFollow s f r), enables := 0xF }] }
        (frameState s { f with reduction := some r, shown := shownFollow s f r, expects := 6 }) := by
  have taken := takeWord_run ready here run expected.symm (by omega) (by omega) data
  rw [takeFrameWord_five expected] at taken
  refine (takeWords_take taken rfl (depth_slot (slotReady_frameState ready f) (by omega) rfl) rest).trans ?_
  dsimp only
  rw [← run]
  rfl

theorem takeWords_six {r : Reduction} (expected : f.expects = 6) (reduced : f.reduction = some r) (data : Word)
    (rest : List WordWrite) :
    let answer := answerSweep s.sc s.tsm.spindle f.head r f.shown
    takeWords ({ addr := ring.base + 32 * slot + 4 * 6, data := data, enables := 0xF } :: rest) p (frameState s f) =
      takeWords rest { p with taken := p.taken ++
        [{ addr := ring.base + 32 * slot + 4 * 6, data := annotation6 answer.1 answer.2.1 answer.2.2, enables := 0xF }] }
        (frameState s { f with expects := 7 }) := by
  have taken := takeWord_run ready here run expected.symm (by omega) (by omega) data
  rw [takeFrameWord_six expected reduced] at taken
  refine (takeWords_take taken rfl (depth_slot (slotReady_frameState ready f) (by omega) rfl) rest).trans ?_
  dsimp only
  rw [← run]
  rfl

/-- Word 7 completes the frame, and stalls the write if the record of its close waits. -/
theorem takeWords_seven {r : Reduction} (expected : f.expects = 7) (reduced : f.reduction = some r) (data : Word) :
    takeWords [{ addr := ring.base + 32 * slot + 4 * 7, data := data, enables := 0xF }] p (frameState s f) =
      ({ p with
        taken := p.taken ++ [{ addr := ring.base + 32 * slot + 4 * 7
                               data := annotation7 r.signalSum (completion (frameState s f) f r).2, enables := 0xF }]
        todo := []
        stall := if s.sc.holder.isNone && (completion (frameState s f) f r).1.sc.holder.isSome then some .result else none },
      frameEnded (frameState s f) f r) := by
  have taken := takeWord_run ready here run expected.symm (by omega) (by omega) data
  rw [takeFrameWord_seven expected reduced] at taken
  have depth := depth_slot (slotReady_frameState ready f) (n := 7)
    (x := { addr := ring.base + 32 * slot + 4 * 7, data := data, enables := 0xF }) (by omega) rfl
  cases stall : (if (frameState s f).sc.holder.isNone && (completion (frameState s f) f r).1.sc.holder.isSome then some Stall.result
      else none) with
  | none =>
    have passes : (if s.sc.holder.isNone && (completion (frameState s f) f r).1.sc.holder.isSome then some Stall.result
      else none) = none := stall
    rw [takeWords_take taken stall depth [], takeWords_nil, passes, ← run]
  | some y =>
    have stalls : (if s.sc.holder.isNone && (completion (frameState s f) f r).1.sc.holder.isSome then some Stall.result
      else none) = some y := stall
    rw [takeWords_take_stall taken stall depth [], stalls, ← run]

/-- Words 5 to 7 of a frame, taken in one slot run. -/
theorem takeWords_annotated (expected : f.expects = 5) (d5 d6 d7 : Word) :
    let r := reduceFrame s.fr (s.fm.record f.head).floor (s.fm.record f.head).signal f
    let answer := answerSweep s.sc s.tsm.spindle f.head r (shownFollow s f r)
    let seven : FrameRecord := { f with expects := 7, reduction := some r, shown := shownFollow s f r }
    takeWords [{ addr := ring.base + 32 * slot + 4 * 5, data := d5, enables := 0xF },
        { addr := ring.base + 32 * slot + 4 * 6, data := d6, enables := 0xF },
        { addr := ring.base + 32 * slot + 4 * 7, data := d7, enables := 0xF }] p (frameState s f) =
      ({ p with
        taken := p.taken ++ [{ addr := ring.base + 32 * slot + 4 * 5, data := annotation5 r (shownFollow s f r), enables := 0xF }] ++
          [{ addr := ring.base + 32 * slot + 4 * 6, data := annotation6 answer.1 answer.2.1 answer.2.2, enables := 0xF }] ++
          [{ addr := ring.base + 32 * slot + 4 * 7
             data := annotation7 r.signalSum (completion (frameState s seven) seven r).2, enables := 0xF }]
        todo := []
        stall := if s.sc.holder.isNone && (completion (frameState s seven) seven r).1.sc.holder.isSome then some .result else none },
      frameEnded (frameState s seven) seven r) := by
  intro r answer seven
  rw [takeWords_five ready here run expected]
  refine (takeWords_six ready (f := { f with reduction := some r, shown := shownFollow s f r, expects := 6 }) here (by exact run) rfl rfl
    d6 _).trans ?_
  exact takeWords_seven ready (f := seven) here (by exact run) rfl rfl d7

end

/-- The words of a frame as they lie in its slot. -/
def frameWords (a : Nat) (l : List Word) : List WordWrite :=
  List.zipWith (fun i x => { addr := a + 4 * i, data := x, enables := 0xF }) (List.range 8) l

/-- The record of a frame once its words 0 to 4 are taken (R3, R4). -/
def latchedFrame (slot : Nat) (d0 d1 d2 d3 d4 : Word) : FrameRecord :=
  latchFrameWord (latchFrameWord (latchFrameWord (latchFrameWord (startFrame slot d0) d1) d2) d3) d4

/-- Words 0 to 4 of a frame, taken in one slot run. -/
theorem takeWords_latched {b : Nat} {s : State} {ring : CaptureRing} {slot : Nat} (ready : SlotReady b s ring slot)
    (absent : s.fr.frame = none) (d0 d1 d2 d3 d4 : Word) {p : WriteProgress} (run : p.run = none) (rest : List WordWrite) :
    takeWords ({ addr := ring.base + 32 * slot + 4 * 0, data := d0, enables := 0xF } ::
        { addr := ring.base + 32 * slot + 4 * 1, data := d1, enables := 0xF } ::
        { addr := ring.base + 32 * slot + 4 * 2, data := d2, enables := 0xF } ::
        { addr := ring.base + 32 * slot + 4 * 3, data := d3, enables := 0xF } ::
        { addr := ring.base + 32 * slot + 4 * 4, data := d4, enables := 0xF } :: rest) p s =
      takeWords rest { p with
        taken := p.taken ++ [{ addr := ring.base + 32 * slot + 4 * 0, data := d0, enables := 0xF }] ++
          [{ addr := ring.base + 32 * slot + 4 * 1, data := d1, enables := 0xF }] ++
          [{ addr := ring.base + 32 * slot + 4 * 2, data := d2, enables := 0xF }] ++
          [{ addr := ring.base + 32 * slot + 4 * 3, data := d3, enables := 0xF }] ++
          [{ addr := ring.base + 32 * slot + 4 * 4, data := d4, enables := 0xF }]
        run := some { slot := slot, counted := false } } (frameState s (latchedFrame slot d0 d1 d2 d3 d4)) := by
  refine (takeWords_start ready absent d0 run _).trans ?_
  refine (takeWords_latch ready (f := startFrame slot d0) (n := 1) rfl rfl rfl (by omega) (by omega) d1 _).trans ?_
  refine (takeWords_latch ready (f := latchFrameWord (startFrame slot d0) d1) (n := 2) rfl rfl rfl (by omega) (by omega) d2 _).trans ?_
  refine (takeWords_latch ready (f := latchFrameWord (latchFrameWord (startFrame slot d0) d1) d2) (n := 3) rfl rfl rfl (by omega)
    (by omega) d3 _).trans ?_
  exact takeWords_latch ready (f := latchFrameWord (latchFrameWord (latchFrameWord (startFrame slot d0) d1) d2) d3) (n := 4) rfl rfl rfl
    (by omega) (by omega) d4 _

/-- A whole frame in one burst: what its words carry downstream, and the state it leaves. -/
theorem takeWords_frame {b : Nat} {s : State} {ring : CaptureRing} {slot : Nat} (ready : SlotReady b s ring slot)
    (absent : s.fr.frame = none) (d0 d1 d2 d3 d4 d5 d6 d7 : Word) {p : WriteProgress} (run : p.run = none) (fresh : p.taken = []) :
    let five := latchedFrame slot d0 d1 d2 d3 d4
    let r := reduceFrame s.fr (s.fm.record five.head).floor (s.fm.record five.head).signal five
    let answer := answerSweep s.sc s.tsm.spindle five.head r (shownFollow s five r)
    let seven : FrameRecord := { five with expects := 7, reduction := some r, shown := shownFollow s five r }
    takeWords (frameWords (ring.base + 32 * slot) [d0, d1, d2, d3, d4, d5, d6, d7]) p s =
      ({ p with
        taken := frameWords (ring.base + 32 * slot) [d0, d1, d2, d3, d4, annotation5 r (shownFollow s five r),
          annotation6 answer.1 answer.2.1 answer.2.2, annotation7 r.signalSum (completion (frameState s seven) seven r).2]
        run := some { slot := slot, counted := false }
        todo := []
        stall := if s.sc.holder.isNone && (completion (frameState s seven) seven r).1.sc.holder.isSome then some .result else none },
      frameEnded (frameState s seven) seven r) := by
  have latched := takeWords_latched ready absent d0 d1 d2 d3 d4 run
    [{ addr := ring.base + 32 * slot + 4 * 5, data := d5, enables := 0xF },
     { addr := ring.base + 32 * slot + 4 * 6, data := d6, enables := 0xF },
     { addr := ring.base + 32 * slot + 4 * 7, data := d7, enables := 0xF }]
  have here : (latchedFrame slot d0 d1 d2 d3 d4).slot = slot := rfl
  have expected : (latchedFrame slot d0 d1 d2 d3 d4).expects = 5 := rfl
  generalize latchedFrame slot d0 d1 d2 d3 d4 = five at *
  refine latched.trans ?_
  rw [takeWords_annotated ready here rfl expected, fresh]
  rfl

/-! ## The bursts of a frame -/

/-- A write that arrived at a free port passes from a state in which the ports stand as they stood. -/
theorem settleWrite_stood {p : WriteProgress} {s u : State} {a : Nat} (stall : p.stall = none) (hold : p.hold = 0) (addr : p.addr = a)
    (ports : u.ports = s.ports) (port : u.tp.upstream = []) : settleWrite p [] u = { u with
      tp := { u.tp with outstanding := u.tp.outstanding ++ [.write a] }
      ports := { s.ports with down := s.ports.down ++ [.write a p.taken] } } := by
  rw [settleWrite_passes stall hold, ← addr, ← ports, ← port]

/-- A write that arrived at a free port stays there, stalled. -/
theorem settleWrite_stalled {p : WriteProgress} {u : State} {a : Nat} {x : Stall} (stall : p.stall = some x) (addr : p.addr = a) :
    settleWrite p [] u = { u with tp := { u.tp with upstream := [.write { p with addr := a, stall := some x }] } } := by
  rw [settleWrite_stays (Or.inl (by rw [stall]; exact Option.some_ne_none x)), ← addr, ← stall]

/-- A whole frame in one burst. -/
def frameBurst (a : Nat) (d0 d1 d2 d3 d4 d5 d6 d7 : Word) : WriteBurst :=
  { addr := BitVec.ofNat 32 a
    beats := [{ data := d1 ++ d0, lanes := 0xFF }, { data := d3 ++ d2, lanes := 0xFF },
              { data := d5 ++ d4, lanes := 0xFF }, { data := d7 ++ d6, lanes := 0xFF }] }

theorem frameBurst_words {a : Nat} (place : a % 8 = 0 ∧ a + 32 ≤ 4294967296) (d0 d1 d2 d3 d4 d5 d6 d7 : Word) :
    (frameBurst a d0 d1 d2 d3 d4 d5 d6 d7).addr.toNat = a ∧
    burstWords (frameBurst a d0 d1 d2 d3 d4 d5 d6 d7) = frameWords a [d0, d1, d2, d3, d4, d5, d6, d7] := by
  have addr : (BitVec.ofNat 32 a).toNat = a := by
    rw [BitVec.toNat_ofNat]
    omega
  have first : firstBeat (BitVec.ofNat 32 a) = a := by
    rw [firstBeat, addr]
    omega
  refine ⟨addr, ?_⟩
  simp only [frameBurst, burstWords, first, ← beatOf_append, beatWords, beat_full, List.cons_append, List.nil_append]
  rfl

section

variable {b : Nat} {s : State} {ring : CaptureRing} {slot : Nat} (ready : SlotReady b s ring slot)
include ready

/-- A whole frame in one burst, written at a free port. -/
theorem exec_frame (absent : s.fr.frame = none) (d0 d1 d2 d3 d4 d5 d6 d7 : Word) :
    let a := ring.base + 32 * slot
    let five := latchedFrame slot d0 d1 d2 d3 d4
    let r := reduceFrame s.fr (s.fm.record five.head).floor (s.fm.record five.head).signal five
    let answer := answerSweep s.sc s.tsm.spindle five.head r (shownFollow s five r)
    let seven : FrameRecord := { five with expects := 7, reduction := some r, shown := shownFollow s five r }
    let done := completion (frameState s seven) seven r
    let ended := frameEnded (frameState s seven) seven r
    let words := frameWords a [d0, d1, d2, d3, d4, annotation5 r (shownFollow s five r),
      annotation6 answer.1 answer.2.1 answer.2.2, annotation7 r.signalSum done.2]
    (done.1.sc.holder = none ∨ s.sc.holder ≠ none →
      exec (.captureWrite (frameBurst a d0 d1 d2 d3 d4 d5 d6 d7)) s = .next { ended with
        tp := { ended.tp with outstanding := ended.tp.outstanding ++ [.write a] }
        ports := { s.ports with down := s.ports.down ++ [.write a words] } }) ∧
    (done.1.sc.holder ≠ none → s.sc.holder = none →
      exec (.captureWrite (frameBurst a d0 d1 d2 d3 d4 d5 d6 d7)) s = .next { ended with
        tp := { ended.tp with upstream := [.write
          { addr := a, taken := words, todo := [], run := some { slot := slot, counted := false }, hold := 0
            stall := some .result }] } }) := by
  intro a five r answer seven done ended words
  obtain ⟨addr, burst⟩ := frameBurst_words (slot_place ready) d0 d1 d2 d3 d4 d5 d6 d7
  have taken := takeWords_frame ready absent d0 d1 d2 d3 d4 d5 d6 d7 (p := newWrite (frameBurst a d0 d1 d2 d3 d4 d5 d6 d7)) rfl rfl
  have stands := takeWords_ports (burstWords (frameBurst a d0 d1 d2 d3 d4 d5 d6 d7))
    (newWrite (frameBurst a d0 d1 d2 d3 d4 d5 d6 d7)) s
  have arrives := arrive_write ready.free.2 (frameBurst a d0 d1 d2 d3 d4 d5 d6 d7)
  rw [burst, taken] at arrives stands
  have ports : ended.ports = s.ports := stands.1
  have upstream : ended.tp.upstream = [] := stands.2.trans ready.free.2
  rw [exec_write ready.free.1.1 _ List.mem_cons_self, arrives]
  refine ⟨fun passes => ?_, fun closes waits => ?_⟩
  · exact congrArg Host.Outcome.next (settleWrite_stood (completion_stall.1 passes) rfl addr ports upstream)
  · have stalled := completion_stall.2 closes waits
    exact congrArg Host.Outcome.next (settleWrite_stalled stalled addr)

end

/-- Settles O49: a whole frame, each word of one, its completion, and the fields of the three words. -/
theorem wholeFrameIsAnnotatedAndCompleted : Obligations.WholeFrameIsAnnotatedAndCompleted := by
  unfold Obligations.WholeFrameIsAnnotatedAndCompleted
  intro complete answer5
  refine ⟨fun b s ring slot d0 d1 d2 d3 d4 d5 d6 d7 free windows placed inside absent clear => ?_,
    fun b s ring f other d free windows placed inside present clear => ?_, completeSeen_eq, fun f r => rfl, by decide,
    annotation5_fields, fun accepted n state => annotation6_fields accepted state, annotation7_fields⟩
  · intro a w head five
    have latched : five = latchedFrame slot d0 d1 d2 d3 d4 := rfl
    have named : head = five.head := rfl
    clear_value five head
    subst named latched
    exact exec_frame ⟨free, windows, placed, inside, clear⟩ absent d0 d1 d2 d3 d4 d5 d6 d7
  · have ready : SlotReady b s ring f.slot := ⟨free, windows, placed, inside, clear⟩
    intro a w on keeps
    have latch (low : 1 ≤ f.expects) (high : f.expects ≤ 4) : exec (.captureWrite w) s = .next (on d (keeps (latchFrameWord f d))) :=
      exec_frameWord ready present low (by omega) other d (takeFrameWord_latch low high) rfl
    refine ⟨fun h => ?_, fun h => ?_, fun h => ?_, fun h => ?_, fun h => ?_, fun r h reduced => ?_, fun r h reduced => ⟨fun passes => ?_,
      fun closes waits => ?_⟩⟩
    · rw [latch (by omega) (by omega), latchFrameWord, h]
      rfl
    · rw [latch (by omega) (by omega), latchFrameWord, h]
      rfl
    · rw [latch (by omega) (by omega), latchFrameWord, h]
      rfl
    · rw [latch (by omega) (by omega), latchFrameWord, h]
      rfl
    · exact exec_frameWord ready present (by omega) (by omega) other d (takeFrameWord_five h) rfl
    · exact exec_frameWord ready present (by omega) (by omega) other d (takeFrameWord_six h reduced) rfl
    · exact exec_frameWord ready present (by omega) (by omega) other d (takeFrameWord_seven h reduced) (completion_stall.1 passes)
    · have stalled := exec_frameWord_stall ready present (by omega) (by omega) other d (takeFrameWord_seven h reduced)
        (completion_stall.2 closes waits) (by omega)
      refine stalled.trans ?_
      rw [h]
      rfl

end Sys2Proof.Proofs
end

section
/-! Words of the capture ring that continue no frame: strays and tears, in one slot run (sections 1.1, 1.2). -/

namespace Sys2Proof.Proofs

open Sys2Proof.Machine

/-! ## Words of the capture ring -/

/-- The part is out of reset, and the capture ring lies at a multiple of 32, outside the control region. -/
structure RingAt (b : Nat) (ring : CaptureRing) (s : State) : Prop where
  high : s.resetLow = false
  base : s.tp.controlBase = some b
  placed : s.tp.captureRing = some ring
  aligned : ring.base % 32 = 0
  apart : Apart ring.base (32 * ring.slots) b 4096

theorem ringAt_of_free {b : Nat} {s : State} {ring : CaptureRing} (free : PortFree b s) (windows : WindowInv s)
    (placed : s.tp.captureRing = some ring) : RingAt b ring s :=
  ⟨free.1.1, free.1.2.1, placed, (windows.capture ring placed).1, windows.captureControl b ring free.1.2.1 placed⟩

/-- A frame that completes does not move the ring. -/
theorem ringAt_frameSteps {b : Nat} {ring : CaptureRing} : FrameSteps (RingAt b ring) where
  toSweepSteps := sweepSteps_of_pieces (fun _ _ hs => ⟨hs.high, hs.base, hs.placed, hs.aligned, hs.apart⟩)
    (fun _ _ hs => ⟨hs.high, hs.base, hs.placed, hs.aligned, hs.apart⟩) (fun _ _ _ hs => ⟨hs.high, hs.base, hs.placed, hs.aligned, hs.apart⟩)
    fun s r hs _ => by rw [enterResult_eq]; exact ⟨hs.high, hs.base, hs.placed, hs.aligned, hs.apart⟩
  fr _ _ hs := ⟨hs.high, hs.base, hs.placed, hs.aligned, hs.apart⟩
  fm _ _ hs := ⟨hs.high, hs.base, hs.placed, hs.aligned, hs.apart⟩

/-- The word lies in the capture ring. -/
def RingWord (ring : CaptureRing) (x : WordWrite) : Prop :=
  x.addr % 4 = 0 ∧ ring.base ≤ x.addr ∧ x.addr < ring.base + 32 * ring.slots

/-- The slot of a word of the ring (R2). -/
def slotOf (ring : CaptureRing) (x : WordWrite) : Nat := (x.addr - ring.base) / 32

/-- The place of a word of the ring in its slot (R2). -/
def indexOf (ring : CaptureRing) (x : WordWrite) : Nat := (x.addr - ring.base) % 32 / 4

theorem indexOf_lt (ring : CaptureRing) (x : WordWrite) : indexOf ring x < 8 := by
  rw [indexOf]
  omega

/-- The address of a word of the ring, by its slot and its place there. -/
theorem ringWord_addr {ring : CaptureRing} (aligned : ring.base % 32 = 0) {x : WordWrite} (word : RingWord ring x) :
    x.addr = ring.base + 32 * slotOf ring x + 4 * indexOf ring x := by
  obtain ⟨whole, low, -⟩ := word
  rw [slotOf, indexOf]
  omega

/-- A written word of the ring is taken by the Frame Reducer (R2). -/
theorem takeWord_ring {b : Nat} {s : State} {ring : CaptureRing} (here : RingAt b ring s) {x : WordWrite} (word : RingWord ring x)
    (written : x.enables ≠ 0) (run : Option SlotRun) :
    takeWord s x run = takeCapture s x run (slotOf ring x) (indexOf ring x) := by
  have at_ := ringWord_addr here.aligned word
  have small := indexOf_lt ring x
  obtain ⟨-, -, high⟩ := word
  have window := decodeWrite_capture s.ip here.base here.placed (slot := slotOf ring x) (by omega) small here.apart
  rw [← at_] at window
  exact takeWord_capture written window run

/-! ## Words that pass as they are -/

/-- A write goes on behind words that are not written. -/
theorem takeWords_skip {s : State} {before : List WordWrite} (unwritten : ∀ y ∈ before, y.enables = 0) (p : WriteProgress)
    (rest : List WordWrite) : takeWords (before ++ rest) p s = takeWords rest { p with taken := p.taken ++ before } s := by
  induction before generalizing p with
  | nil => rw [List.nil_append, List.append_nil]
  | cons y before ih =>
    rw [List.cons_append, takeWords_unwritten (unwritten y List.mem_cons_self), ih fun z hz => unwritten z (List.mem_cons_of_mem _ hz),
      List.append_assoc]
    rfl

/-- The word passes as it is, changes no block and the slot run neither, and overlaps no record. -/
def Idle (s : State) (run : Option SlotRun) (x : WordWrite) : Prop :=
  takeWord s x run = passWord s x run ∧ holdDepth s.tp.queue x = 0

theorem idle_unwritten (s : State) (run : Option SlotRun) {x : WordWrite} (h : x.enables = 0) : Idle s run x :=
  ⟨takeWord_unwritten h run, holdDepth_unwritten _ h⟩

theorem takeWords_idle {s : State} {run : Option SlotRun} {ws : List WordWrite} (idle : ∀ y ∈ ws, Idle s run y) {p : WriteProgress}
    (same : p.run = run) : takeWords ws p s = ({ p with taken := p.taken ++ ws, todo := [], stall := none }, s) := by
  induction ws generalizing p with
  | nil => rw [takeWords_nil, List.append_nil]
  | cons x ws ih =>
    obtain ⟨taken, depth⟩ := idle x List.mem_cons_self
    rw [← same] at taken
    rw [takeWords_take taken rfl depth]
    refine (ih (fun y hy => idle y (List.mem_cons_of_mem _ hy)) (by exact same)).trans ?_
    rw [List.append_assoc]
    rfl

/-- A write at a free port of which the first written word alone does something: it passes as written. -/
theorem exec_firstWord {b : Nat} {s u : State} (free : PortFree b s) {w : WriteBurst} {before after : List WordWrite} {x : WordWrite}
    {run : Option SlotRun} (words : burstWords w = before ++ x :: after) (unwritten : ∀ y ∈ before, y.enables = 0)
    (taken : takeWord s x none = passWord u x run) (depth : holdDepth s.tp.queue x = 0) (idle : ∀ y ∈ after, Idle u run y) :
    exec (.captureWrite w) s = .next { u with
      tp := { u.tp with outstanding := u.tp.outstanding ++ [.write w.addr.toNat] }
      ports := { s.ports with down := s.ports.down ++ [.write w.addr.toNat (burstWords w)] } } := by
  have through : takeWords (burstWords w) (newWrite w) s =
      ({ newWrite w with taken := burstWords w, run := run, todo := [], stall := none }, u) := by
    rw [words, takeWords_skip unwritten]
    refine (takeWords_take (p := { newWrite w with taken := before }) taken rfl depth after).trans ?_
    refine (takeWords_idle (p := { newWrite w with taken := before ++ [x], run := run }) idle rfl).trans ?_
    rw [List.append_assoc]
    rfl
  obtain ⟨ports, upstream⟩ := takeWords_ports (burstWords w) (newWrite w) s
  rw [through] at ports upstream
  rw [exec_write free.1.1 _ List.mem_cons_self, arrive_write free.2, through]
  exact congrArg Host.Outcome.next (settleWrite_stood rfl rfl rfl ports (upstream.trans free.2))

/-! ## Strays and tears in one slot run (R3, R5, R6, R8) -/

/-- One torn is counted and FRAME FAULT raised, and the frame assembly record is then `frame` (R8). -/
def tornInto (s : State) (frame : Option FrameRecord) : State :=
  { s with
    fr := { s.fr with frame := frame, torn := min 65535 (s.fr.torn + 1) }
    ra := s.ra.raise .frameFault { place := none, a := 0, b := 0 } }

section

variable {b : Nat} {s : State} {ring : CaptureRing} {slot : Nat} (ready : SlotReady b s ring slot) {w : WriteBurst} (wf : w.wf = true)
  (inside : ∀ x ∈ burstWords w, x.enables ≠ 0 → ring.base + 32 * slot ≤ x.addr ∧ x.addr < ring.base + 32 * slot + 32)
include ready wf inside

/-- The word of the slot that a written word of the write is. -/
theorem slotWord_of_mem {x : WordWrite} (hx : x ∈ burstWords w) (written : x.enables ≠ 0) :
    ∃ n, n < 8 ∧ x.addr = ring.base + 32 * slot + 4 * n := by
  have place := slot_place ready
  have aligned := (burstWords_addr wf hx).2.2
  obtain ⟨low, high⟩ := inside x hx written
  exact ⟨(x.addr - (ring.base + 32 * slot)) / 4, by omega, by omega⟩

omit wf inside in
/-- The slot stands while one torn is counted. -/
theorem slotReady_tornInto (frame : Option FrameRecord) : SlotReady b (tornInto s frame) ring slot where
  free := ready.free
  windows := windowInv_of_same ready.windows ⟨rfl, rfl, rfl, rfl, rfl, rfl⟩
  placed := ready.placed
  inside := ready.inside
  clear := ready.clear

/-- Once its slot run has counted, a word of the slot adds nothing while no frame is there and it starts none (R6). -/
theorem idle_counted (absent : ∀ f, s.fr.frame = some f → f.slot ≠ slot) {x : WordWrite} (hx : x ∈ burstWords w)
    (start : x.addr = ring.base + 32 * slot → x.enables ≠ 0xF) : Idle s (some { slot := slot, counted := true }) x := by
  by_cases written : x.enables = 0
  · exact idle_unwritten s _ written
  · obtain ⟨n, small, at_⟩ := slotWord_of_mem ready wf inside hx written
    refine ⟨?_, depth_slot ready small at_⟩
    have run : slotRun (some { slot := slot, counted := true }) slot = { slot := slot, counted := true } := if_pos rfl
    rw [takeWord_slot ready small at_ written, takeCapture_stray absent fun full => start (by omega) full.1, run]
    exact takeStray_counted s x rfl

/-- A write whose first written word counts one torn and leaves no frame in the slot: the rest of its slot run adds nothing. -/
theorem exec_torn {before after : List WordWrite} {x : WordWrite} {frame : Option FrameRecord} (words : burstWords w = before ++ x :: after)
    (unwritten : ∀ y ∈ before, y.enables = 0) (written : x.enables ≠ 0)
    (start : ∀ y ∈ after, y.addr = ring.base + 32 * slot → y.enables ≠ 0xF) (absent : ∀ f, frame = some f → f.slot ≠ slot)
    (first : ∀ n, x.addr = ring.base + 32 * slot + 4 * n → takeCapture s x none slot n =
      passWord (tornInto s frame) x (some { slot := slot, counted := true })) :
    exec (.captureWrite w) s = .next (passed w.addr.toNat (burstWords w) (tornInto s frame)) := by
  have hx : x ∈ burstWords w := words ▸ List.mem_append_right _ List.mem_cons_self
  have behind {y : WordWrite} (hy : y ∈ after) : y ∈ burstWords w := words ▸ List.mem_append_right _ (List.mem_cons_of_mem _ hy)
  obtain ⟨n, small, at_⟩ := slotWord_of_mem ready wf inside hx written
  have taken := first n at_
  rw [← takeWord_slot ready small at_ written] at taken
  exact exec_firstWord ready.free words unwritten taken (depth_slot ready small at_) fun y hy =>
    idle_counted (slotReady_tornInto ready frame) wf inside absent (behind hy) (start y hy)

/-- Strays of one slot run, however many, count one torn (R6). -/
theorem exec_strays (some_written : ∃ x ∈ burstWords w, x.enables ≠ 0)
    (start : ∀ x ∈ burstWords w, x.addr = ring.base + 32 * slot → x.enables ≠ 0xF) (absent : ∀ f, s.fr.frame = some f → f.slot ≠ slot) :
    exec (.captureWrite w) s = .next (passed w.addr.toNat (burstWords w) (tornInto s s.fr.frame)) := by
  obtain ⟨x, hx, written⟩ := some_written
  have found : ((burstWords w).find? fun x => x.enables ≠ 0).isSome := List.find?_isSome.mpr ⟨x, hx, by simpa using written⟩
  obtain ⟨y, hy⟩ := Option.isSome_iff_exists.mp found
  obtain ⟨first, before, after, words, unwritten⟩ := List.find?_eq_some_iff_append.mp hy
  rw [decide_eq_true_eq] at first
  refine exec_torn ready wf inside words (fun z hz => by simpa using unwritten z hz) first
    (fun z hz => start z (words ▸ List.mem_append_right _ (List.mem_cons_of_mem _ hz))) absent fun n at_ => ?_
  have here : ¬ (y.enables = 0xF ∧ n = 0) := fun full =>
    start y (words ▸ List.mem_append_right _ List.mem_cons_self) (by omega) full.1
  rw [takeCapture_stray absent here, takeStray_first s y rfl]
  rfl

/-- A word that tears the frame of its slot counts one torn, and the rest of the run adds nothing (R5, R6). -/
theorem exec_tears {f : FrameRecord} (present : s.fr.frame = some f) (here : f.slot = slot) {before after : List WordWrite}
    {x : WordWrite} (words : burstWords w = before ++ x :: after) (unwritten : ∀ y ∈ before, y.enables = 0) (written : x.enables ≠ 0)
    (other : ¬ (x.enables = 0xF ∧ (x.addr = ring.base + 32 * slot ∨ x.addr = ring.base + 32 * slot + 4 * f.expects))) :
    exec (.captureWrite w) s = .next (passed w.addr.toNat (burstWords w) (tornInto s none)) := by
  have sorted := burstWords_ascending w
  rw [words, List.pairwise_append, List.pairwise_cons] at sorted
  obtain ⟨-, ⟨ahead, -⟩, -⟩ := sorted
  have low := (inside x (words ▸ List.mem_append_right _ List.mem_cons_self) written).1
  refine exec_torn ready wf inside words unwritten written (fun y hy at_ => ?_) (fun g none_ => absurd none_.symm (Option.some_ne_none g))
    fun n at_ => ?_
  · have := ahead y hy
    omega
  · rw [takeCapture_tears present here (fun full => other ⟨full.1, Or.inl (by omega)⟩)
      fun next => other ⟨next.1, Or.inr (by rw [at_, next.2])⟩]
    rfl

end

/-- A write that begins with a full word 0 tears the frame that is present, and does then what it does without one (R3). -/
theorem exec_start_torn {b : Nat} {s : State} {ring : CaptureRing} {slot : Nat} (port : s.tp.upstream = [])
    (here : RingAt b ring s) (inside : slot < ring.slots) (present : s.fr.frame ≠ none) {w : WriteBurst} {before after : List WordWrite}
    {x : WordWrite} (words : burstWords w = before ++ x :: after) (unwritten : ∀ y ∈ before, y.enables = 0)
    (at_ : x.addr = ring.base + 32 * slot) (full : x.enables = 0xF) :
    exec (.captureWrite w) s = exec (.captureWrite w) (tornInto s none) := by
  have aligned := here.aligned
  have word : RingWord ring x := ⟨by omega, by omega, by omega⟩
  have first : indexOf ring x = 0 := by
    rw [indexOf]
    omega
  have written : x.enables ≠ 0 := by
    rw [full]
    decide
  have torn : s.abandonFrame = tornInto s none := by
    obtain ⟨f, present⟩ := Option.ne_none_iff_exists'.mp present
    rw [State.abandonFrame, present]
    rfl
  have here' : RingAt b ring (tornInto s none) := ⟨here.high, here.base, here.placed, here.aligned, here.apart⟩
  have same : takeWord s x none = takeWord (tornInto s none) x none := by
    rw [takeWord_ring here word written, takeWord_ring here' word written, takeCapture_start full first, takeCapture_start full first, torn]
    rfl
  have through (p : WriteProgress) (run : p.run = none) : takeWords (x :: after) p s = takeWords (x :: after) p (tornInto s none) := by
    rw [takeWords, takeWords, run, same]
    rfl
  rw [exec_write here.high _ List.mem_cons_self, exec_write (s := tornInto s none) here.high _ List.mem_cons_self, arrive_write port,
    arrive_write (s := tornInto s none) port, words, takeWords_skip unwritten, takeWords_skip unwritten, through _ rfl]

end Sys2Proof.Proofs
end

section
/-! Writes of the words of the capture ring in two parts (section 1.2): each further slot run counts for itself. -/

namespace Sys2Proof.Proofs

open Sys2Proof.Machine

/-! ## The words that are written, apart from those that are not -/

/-- The words of a write that are written. -/
def writtenWords (l : List WordWrite) : List WordWrite := l.filter fun x => x.enables ≠ 0

theorem mem_writtenWords {l : List WordWrite} {x : WordWrite} : x ∈ writtenWords l ↔ x ∈ l ∧ x.enables ≠ 0 := by
  rw [writtenWords, List.mem_filter, decide_eq_true_eq]

theorem writtenWords_append (l m : List WordWrite) : writtenWords (l ++ m) = writtenWords l ++ writtenWords m :=
  List.filter_append l m

theorem writtenWords_cons {x : WordWrite} (written : x.enables ≠ 0) (l : List WordWrite) :
    writtenWords (x :: l) = x :: writtenWords l :=
  List.filter_cons_of_pos (by simpa using written)

theorem writtenWords_unwritten {x : WordWrite} (h : x.enables = 0) (l : List WordWrite) : writtenWords (x :: l) = writtenWords l :=
  List.filter_cons_of_neg (by simpa using h)

/-- Two writes of which the words taken so far do the same: they are in the same slot run, wait for the same records and have carried
the same written words. -/
structure Alike (p q : WriteProgress) : Prop where
  run : p.run = q.run
  hold : p.hold = q.hold
  words : writtenWords p.taken = writtenWords q.taken

/-- What words have done is the same: the state they leave, what stalls the write, and all that `Alike` says. -/
structure SameEffect (l m : WriteProgress × State) : Prop where
  alike : Alike l.1 m.1
  stall : l.1.stall = m.1.stall
  state : l.2 = m.2

theorem SameEffect.trans {l m n : WriteProgress × State} (h : SameEffect l m) (h' : SameEffect m n) : SameEffect l n :=
  ⟨⟨h.alike.run.trans h'.alike.run, h.alike.hold.trans h'.alike.hold, h.alike.words.trans h'.alike.words⟩, h.stall.trans h'.stall,
    h.state.trans h'.state⟩

theorem SameEffect.symm {l m : WriteProgress × State} (h : SameEffect l m) : SameEffect m l :=
  ⟨⟨h.alike.run.symm, h.alike.hold.symm, h.alike.words.symm⟩, h.stall.symm, h.state.symm⟩

/-- The words that are not written may be left out. -/
theorem takeWords_written (ws : List WordWrite) {p q : WriteProgress} (alike : Alike p q) (s : State) :
    SameEffect (takeWords ws p s) (takeWords (writtenWords ws) q s) := by
  induction ws generalizing p q s with
  | nil => exact ⟨⟨alike.run, alike.hold, alike.words⟩, rfl, rfl⟩
  | cons x ws ih =>
    by_cases written : x.enables = 0
    · rw [takeWords_unwritten written, writtenWords_unwritten written]
      refine ih (p := { p with taken := p.taken ++ [x] }) ⟨alike.run, alike.hold, ?_⟩ s
      change writtenWords (p.taken ++ [x]) = _
      rw [writtenWords_append, writtenWords_unwritten written]
      exact (List.append_nil _).trans alike.words
    · rw [writtenWords_cons written]
      have words (data : Word) : writtenWords (p.taken ++ [{ x with data := data }]) = writtenWords (q.taken ++ [{ x with data := data }]) := by
        rw [writtenWords_append, writtenWords_append, alike.words]
      have run := alike.run
      cases stall : (takeWord s x q.run).stall with
      | some y =>
        rw [takeWords_stall x ws p s y (by rw [run, stall]), takeWords_stall x _ q s y stall, run, alike.hold]
        exact ⟨⟨rfl, rfl, words _⟩, rfl, rfl⟩
      | none =>
        rw [takeWords_cons x ws p s (by rw [run, stall]), takeWords_cons x _ q s stall, run, alike.hold]
        exact ih (Alike.mk (q := { q with
          taken := q.taken ++ [{ x with data := (takeWord s x q.run).data }]
          run := (takeWord s x q.run).run
          hold := max q.hold (holdDepth s.tp.queue x) }) (by rfl) (by rfl) (words _)) _

/-- Writes of the same written words do the same. -/
theorem takeWords_alike {ws vs : List WordWrite} (same : writtenWords ws = writtenWords vs) {p q : WriteProgress} (alike : Alike p q)
    (s : State) : SameEffect (takeWords ws p s) (takeWords vs q s) := by
  have left := takeWords_written ws alike s
  have right := takeWords_written vs ⟨rfl, rfl, rfl⟩ s (p := q) (q := q)
  rw [same] at left
  exact left.trans right.symm

/-- The words that a write carries are where it wrote them; those that are not written are as it wrote them. -/
theorem takeWords_carried (ws : List WordWrite) (p : WriteProgress) (s : State) (stall : (takeWords ws p s).1.stall = none) :
    ∃ l, (takeWords ws p s).1.taken = p.taken ++ l ∧ l.map (fun x => (x.addr, x.enables)) = ws.map (fun x => (x.addr, x.enables)) ∧
      ∀ x ∈ l, x.enables = 0 → x ∈ ws := by
  induction ws generalizing p s with
  | nil => exact ⟨[], (List.append_nil _).symm, rfl, fun x hx => absurd hx List.not_mem_nil⟩
  | cons x ws ih =>
    cases word : (takeWord s x p.run).stall with
    | some y =>
      rw [takeWords_stall x ws p s y word] at stall
      exact absurd stall (Option.some_ne_none y)
    | none =>
      rw [takeWords_cons x ws p s word] at stall ⊢
      obtain ⟨l, taken, places, unwritten⟩ := ih _ _ stall
      refine ⟨{ x with data := (takeWord s x p.run).data } :: l, ?_, ?_, fun y hy none_ => ?_⟩
      · rw [taken, List.append_assoc]
        rfl
      · rw [List.map_cons, List.map_cons, places]
      · rcases List.mem_cons.mp hy with rfl | hy
        · have data : (takeWord s x p.run).data = x.data := by
            rw [takeWord_unwritten (w := x) none_]
            rfl
          rw [data]
          exact List.mem_cons_self
        · exact List.mem_cons_of_mem _ (unwritten y hy none_)

/-! ## The slot run that words leave (R2) -/

theorem slotRun_slot (run : Option SlotRun) (slot : Nat) : (slotRun run slot).slot = slot := by
  cases run with
  | none => rfl
  | some r =>
    rw [slotRun]
    split
    · assumption
    · rfl

theorem slotRun_other {run : Option SlotRun} {slot : Nat} (other : ∀ r, run = some r → r.slot ≠ slot) :
    slotRun run slot = slotRun none slot := by
  cases run with
  | none => rfl
  | some r => exact if_neg (other r rfl)

/-- A word of a frame does the same in any slot run, and keeps the run it is in. -/
theorem takeFrameWord_run (s : State) (x : WordWrite) (run run' : Option SlotRun) (f : FrameRecord) :
    takeFrameWord s x run f = { takeFrameWord s x run' f with run := run } := by
  unfold takeFrameWord
  split <;> rfl

/-- The slot run after a word of a slot is of that slot. -/
theorem takeCapture_run (s : State) (x : WordWrite) (prior : Option SlotRun) (slot n : Nat) :
    ∃ r, (takeCapture s x prior slot n).run = some r ∧ r.slot = slot := by
  have stray (run : SlotRun) (here : run.slot = slot) : ∃ r, (takeStray s x run).run = some r ∧ r.slot = slot := by
    unfold takeStray
    split
    · exact ⟨run, rfl, here⟩
    · exact ⟨{ run with counted := true }, rfl, here⟩
  have own := slotRun_slot prior slot
  by_cases start : x.enables = 0xF ∧ n = 0
  · rw [takeCapture_start start.1 start.2]
    exact ⟨_, rfl, own⟩
  · by_cases present : ∃ f, s.fr.frame = some f ∧ f.slot = slot
    · obtain ⟨f, present, here⟩ := present
      by_cases next : x.enables = 0xF ∧ n = f.expects
      · rw [takeCapture_next present here next.1 next.2 (fun zero => start ⟨next.1, zero⟩), takeFrameWord_run s x _ none]
        exact ⟨_, rfl, own⟩
      · rw [takeCapture_tears present here start next]
        exact ⟨_, rfl, own⟩
    · rw [takeCapture_stray (fun f hf here => present ⟨f, hf, here⟩) start]
      exact stray _ own

/-- A frame that has not come to word 7 is still there after its next word. -/
theorem takeFrameWord_keeps {s : State} {x : WordWrite} {run : Option SlotRun} {f : FrameRecord} (early : f.expects ≠ 7) :
    ∃ g, (takeFrameWord s x run f).state.fr.frame = some g ∧ g.slot = f.slot := by
  have latched : (latchFrameWord f x.data).slot = f.slot := by
    unfold latchFrameWord
    split <;> rfl
  unfold takeFrameWord
  split
  · exact ⟨_, rfl, rfl⟩
  · exact ⟨_, rfl, rfl⟩
  · next seven => exact absurd seven early
  · exact ⟨_, rfl, latched⟩

/-- A slot run matters to a word for its slot alone, and not to one whose slot has a frame. -/
def RunsAgree (s : State) (run run' : Option SlotRun) (slot : Nat) : Prop :=
  slotRun run slot = slotRun run' slot ∨ ∃ f, s.fr.frame = some f ∧ f.slot = slot

/-- A word does the same in slot runs that agree for its slot, and they agree for it thereafter unless the word was word 7. -/
theorem takeCapture_agree {s : State} {x : WordWrite} {run run' : Option SlotRun} {slot n : Nat} (agree : RunsAgree s run run' slot) :
    let t := takeCapture s x run slot n
    let t' := takeCapture s x run' slot n
    t = { t' with run := t.run } ∧ (n ≠ 7 → RunsAgree t.state t.run t'.run slot) := by
  intro t t'
  rcases agree with same | ⟨f, present, here⟩
  · have equal : t = t' := by
      change takeCapture s x run slot n = takeCapture s x run' slot n
      rw [takeCapture, takeCapture, same]
    rw [equal]
    exact ⟨rfl, fun _ => Or.inl rfl⟩
  · by_cases start : x.enables = 0xF ∧ n = 0
    · have left : t = _ := takeCapture_start start.1 start.2
      have right : t' = _ := takeCapture_start start.1 start.2
      rw [left, right]
      exact ⟨rfl, fun _ => Or.inr ⟨_, rfl, rfl⟩⟩
    · by_cases next : x.enables = 0xF ∧ n = f.expects
      · have later : n ≠ 0 := fun zero => start ⟨next.1, zero⟩
        have left : t = _ := takeCapture_next present here next.1 next.2 later
        have right : t' = _ := takeCapture_next present here next.1 next.2 later
        rw [left, right]
        refine ⟨?_, fun early => Or.inr ?_⟩
        · rw [takeFrameWord_run s x _ none, takeFrameWord_run s x (some (slotRun run' slot)) none]
        · rw [← here]
          exact takeFrameWord_keeps fun seven => early (next.2.trans seven)
      · have left : t = _ := takeCapture_tears present here start next
        have right : t' = _ := takeCapture_tears present here start next
        rw [left, right]
        refine ⟨rfl, fun _ => Or.inl ?_⟩
        have counted : ({ slotRun run slot with counted := true } : SlotRun) = { slotRun run' slot with counted := true } := by
          rw [SlotRun.mk.injEq]
          exact ⟨(slotRun_slot run slot).trans (slotRun_slot run' slot).symm, rfl⟩
        exact congrArg (fun r => slotRun (some r) slot) counted

section

variable {b : Nat} {ring : CaptureRing} {ws : List WordWrite} {s : State} (here : RingAt b ring s)
  (words : ∀ x ∈ ws, x.enables ≠ 0 → RingWord ring x)
include here words

/-- Words of the ring do not move it. -/
theorem takeWords_ringAt (p : WriteProgress) : RingAt b ring (takeWords ws p s).2 := by
  induction ws generalizing p s with
  | nil => exact here
  | cons x ws ih =>
    have onward : RingAt b ring (takeWord s x p.run).state := by
      by_cases written : x.enables = 0
      · rw [takeWord_unwritten written]
        exact here
      · rw [takeWord_ring here (words x List.mem_cons_self written) written]
        exact ringAt_frameSteps.takeCapture here x p.run _ _
    cases stall : (takeWord s x p.run).stall with
    | some y =>
      rw [takeWords_stall x ws p s y stall]
      exact onward
    | none =>
      rw [takeWords_cons x ws p s stall]
      exact ih onward (fun y hy => words y (List.mem_cons_of_mem _ hy)) _

/-- The slot run that words of the ring leave: the one before them, or one of the slot of a written word. -/
theorem takeWords_run (p : WriteProgress) : (takeWords ws p s).1.run = p.run ∨
    ∃ r, (takeWords ws p s).1.run = some r ∧ ∃ x ∈ writtenWords ws, r.slot = slotOf ring x := by
  induction ws generalizing p s with
  | nil => exact Or.inl rfl
  | cons x ws ih =>
    have rest : ∀ y ∈ ws, y.enables ≠ 0 → RingWord ring y := fun y hy => words y (List.mem_cons_of_mem _ hy)
    by_cases written : x.enables = 0
    · rw [takeWords_unwritten written, writtenWords_unwritten written]
      exact ih here rest _
    · have taken := takeWord_ring here (words x List.mem_cons_self written) written p.run
      obtain ⟨r, run, slot⟩ := takeCapture_run s x p.run (slotOf ring x) (indexOf ring x)
      have own : ∃ y ∈ writtenWords (x :: ws), r.slot = slotOf ring y :=
        ⟨x, mem_writtenWords.mpr ⟨List.mem_cons_self, written⟩, slot⟩
      rw [← taken] at run
      cases stall : (takeWord s x p.run).stall with
      | some y =>
        rw [takeWords_stall x ws p s y stall]
        exact Or.inr ⟨r, run, own⟩
      | none =>
        rw [takeWords_cons x ws p s stall]
        have onward : RingAt b ring (takeWord s x p.run).state := by
          rw [taken]
          exact ringAt_frameSteps.takeCapture here x p.run _ _
        rcases ih onward rest { p with
          taken := p.taken ++ [{ x with data := (takeWord s x p.run).data }]
          run := (takeWord s x p.run).run
          hold := max p.hold (holdDepth s.tp.queue x) } with same | ⟨r', last, y, hy, slot⟩
        · exact Or.inr ⟨r, same.trans run, own⟩
        · obtain ⟨mem, set⟩ := mem_writtenWords.mp hy
          exact Or.inr ⟨r', last, y, mem_writtenWords.mpr ⟨List.mem_cons_of_mem _ mem, set⟩, slot⟩

/-- Words of the ring, in ascending order, do the same in slot runs that agree for the slot of each. -/
theorem takeWords_agree (sorted : ws.Pairwise fun x y => x.addr + 4 ≤ y.addr) {p : WriteProgress} {run : Option SlotRun}
    (agree : ∀ x ∈ writtenWords ws, RunsAgree s run p.run (slotOf ring x)) : ∃ last,
      takeWords ws { p with run := run } s = ({ (takeWords ws p s).1 with run := last }, (takeWords ws p s).2) := by
  induction ws generalizing p run s with
  | nil => exact ⟨run, rfl⟩
  | cons x ws ih =>
    obtain ⟨ahead, sorted⟩ := List.pairwise_cons.mp sorted
    have rest : ∀ y ∈ ws, y.enables ≠ 0 → RingWord ring y := fun y hy => words y (List.mem_cons_of_mem _ hy)
    by_cases written : x.enables = 0
    · rw [takeWords_unwritten written, takeWords_unwritten written]
      rw [writtenWords_unwritten written] at agree
      exact ih here rest sorted (p := { p with taken := p.taken ++ [x] }) agree
    · have word := words x List.mem_cons_self written
      rw [writtenWords_cons written] at agree
      obtain ⟨same, after⟩ := takeCapture_agree (x := x) (n := indexOf ring x) (agree x List.mem_cons_self)
      have last := takeCapture_run s x run (slotOf ring x) (indexOf ring x)
      have last' := takeCapture_run s x p.run (slotOf ring x) (indexOf ring x)
      have onward := ringAt_frameSteps.takeCapture here x run (slotOf ring x) (indexOf ring x)
      rw [← takeWord_ring here word written run] at same after last onward
      rw [← takeWord_ring here word written p.run] at same after last'
      generalize made : takeWord s x run = t at *
      generalize made' : takeWord s x p.run = t' at *
      have state : t.state = t'.state := by rw [same]
      have data : t.data = t'.data := by rw [same]
      have stalls : t.stall = t'.stall := by rw [same]
      cases stall : t'.stall with
      | some y =>
        rw [takeWords_stall x ws _ s y (by rw [made, stalls, stall]), takeWords_stall x ws p s y (by rw [made', stall]), made, made', data,
          state]
        exact ⟨t.run, rfl⟩
      | none =>
        rw [takeWords_cons x ws _ s (by rw [made, stalls, stall]), takeWords_cons x ws p s (by rw [made', stall]), made, made', data]
        rw [state] at onward after ⊢
        refine ih onward rest sorted (p := { p with
          taken := p.taken ++ [{ x with data := t'.data }], run := t'.run, hold := max p.hold (holdDepth s.tp.queue x) })
          (run := t.run) fun y hy => ?_
        obtain ⟨r, run_, slot⟩ := last
        obtain ⟨r', run'_, slot'⟩ := last'
        by_cases apart : slotOf ring x = slotOf ring y
        · rw [← apart]
          refine after fun seven => ?_
          obtain ⟨mem, set⟩ := mem_writtenWords.mp hy
          have above := ahead y mem
          have at_ := ringWord_addr here.aligned word
          have at' := ringWord_addr here.aligned (rest y mem set)
          have := indexOf_lt ring y
          omega
        · refine Or.inl ((slotRun_other fun q hq => ?_).trans (slotRun_other fun q hq => ?_).symm)
          · rw [run_] at hq
            rw [← Option.some.inj hq, slot]
            exact apart
          · rw [run'_] at hq
            rw [← Option.some.inj hq, slot']
            exact apart

end

end Sys2Proof.Proofs
end

section
/-! CAPTURE_WRITE of words that continue no frame: one word, one slot run, and any words of the ring (sections 1.1, 1.2). -/

namespace Sys2Proof.Proofs

open Sys2Proof.Machine

/-! ## A write of the ring as its parts -/

/-- A write at a free port that has passed: all its words were taken, nothing held or stalled it, and all that it left beside what its
words did is a write outstanding. -/
theorem exec_hasPassed {s t : State} (high : s.resetLow = false) (port : s.tp.upstream = []) {w : WriteBurst} {words : List WordWrite}
    (done : exec (.captureWrite w) s = .next t) (down : t.ports.down = s.ports.down ++ [.write w.addr.toNat words]) :
    ∃ p u, takeWords (burstWords w) (newWrite w) s = (p, u) ∧ p.stall = none ∧ p.hold = 0 ∧ p.taken = words ∧
      u.ports = s.ports ∧ u.tp.upstream = [] ∧ t.fr = u.fr ∧
      t = { u with
        tp := { u.tp with outstanding := u.tp.outstanding ++ [.write w.addr.toNat] }
        ports := { s.ports with down := s.ports.down ++ [.write w.addr.toNat words] } } := by
  obtain ⟨ports, upstream⟩ := takeWords_ports (burstWords w) (newWrite w) s
  have addr : _ = w.addr.toNat := takeWords_addr (burstWords w) (newWrite w) s
  rw [exec_write high _ List.mem_cons_self, arrive_write port] at done
  generalize takeWords (burstWords w) (newWrite w) s = r at *
  obtain ⟨p, u⟩ := r
  have settled : settleWrite p [] u = t := Host.Outcome.next.inj done
  by_cases stays : p.stall ≠ none ∨ p.hold ≠ 0
  · rw [settleWrite_stays stays] at settled
    have same : t.ports.down = s.ports.down := by
      rw [← settled]
      exact congrArg Ports.down ports
    rw [same] at down
    exact absurd (congrArg List.length down) (by simp)
  · rw [not_or, not_not, not_not] at stays
    obtain ⟨stall, hold⟩ := stays
    rw [settleWrite_stood stall hold addr ports (upstream.trans port)] at settled
    subst settled
    have carried : p.taken = words := by
      have last := List.append_cancel_left down
      simp only [List.cons.injEq, and_true] at last
      injection last
    exact ⟨p, u, rfl, stall, hold, carried, ports, upstream.trans port, rfl, by rw [carried]⟩

/-- The words of the ring in two parts, the second taken as a write of its own: the same is done. A slot run may be parted where its
frame is still there. -/
theorem takeWords_parts {b : Nat} {ring : CaptureRing} {s t : State} (here : RingAt b ring s) (there : RingAt b ring t)
    {w w1 w2 : WriteBurst} {first second : List WordWrite} (parts : burstWords w = first ++ second)
    (words : ∀ x ∈ burstWords w, x.enables ≠ 0 → RingWord ring x)
    (one : writtenWords (burstWords w1) = writtenWords first) (two : writtenWords (burstWords w2) = writtenWords second)
    {p : WriteProgress} (ahead : takeWords (burstWords w1) (newWrite w1) s = (p, t)) (stall : p.stall = none) (hold : p.hold = 0)
    (joined : ∀ x ∈ writtenWords first, ∀ y ∈ writtenWords second, slotOf ring x = slotOf ring y →
      ∃ f, t.fr.frame = some f ∧ f.slot = slotOf ring y) :
    let whole := takeWords (burstWords w) (newWrite w) s
    let rest := takeWords (burstWords w2) (newWrite w2) t
    whole.2 = rest.2 ∧ whole.1.stall = rest.1.stall ∧ whole.1.hold = rest.1.hold ∧
    writtenWords whole.1.taken = writtenWords p.taken ++ writtenWords rest.1.taken := by
  intro whole rest
  have before := takeWords_alike one (p := newWrite w1) (q := newWrite w) ⟨rfl, rfl, rfl⟩ s
  have run := takeWords_run here (ws := first) (fun x hx => words x (parts ▸ List.mem_append_left _ hx)) (newWrite w)
  rw [ahead] at before
  have through : whole = takeWords second (takeWords first (newWrite w) s).1 (takeWords first (newWrite w) s).2 := by
    have goes : (takeWords first (newWrite w) s).1.stall = none := before.stall.symm.trans stall
    change takeWords (burstWords w) (newWrite w) s = _
    rw [parts]
    exact takeWords_append first second _ s goes
  generalize takeWords first (newWrite w) s = made at *
  obtain ⟨q, u⟩ := made
  have state : t = u := before.state
  have held : q.hold = 0 := before.alike.hold.symm.trans hold
  have carried : writtenWords p.taken = writtenWords q.taken := before.alike.words
  subst state
  have sorted := burstWords_ascending w
  rw [parts, List.pairwise_append] at sorted
  obtain ⟨last, agree⟩ := takeWords_agree there (ws := second) (fun x hx => words x (parts ▸ List.mem_append_right _ hx)) sorted.2.1
    (p := newWrite w) (run := q.run) fun y hy => by
      rcases run with none_ | ⟨r, some_, x, hx, slot⟩
      · exact Or.inl (by rw [none_])
      · by_cases same : r.slot = slotOf ring y
        · exact Or.inr (joined x hx y hy (slot.symm.trans same))
        · refine Or.inl (slotRun_other fun r' hr' => ?_)
          rw [← Option.some.inj (some_.symm.trans hr')]
          exact same
  have beside := takeWords_beside second q { newWrite w with run := q.run } t q.taken 0 rfl (List.append_nil _).symm
    (held.trans (Nat.max_self 0).symm)
  have after := takeWords_alike two (p := newWrite w2) (q := newWrite w) ⟨rfl, rfl, rfl⟩ t
  rw [through, beside, agree, carried]
  refine ⟨after.state.symm, after.stall.symm, ?_, ?_⟩
  · exact (Nat.zero_max _).trans after.alike.hold.symm
  · change writtenWords (q.taken ++ _) = _
    rw [writtenWords_append]
    exact congrArg (writtenWords q.taken ++ ·) after.alike.words.symm

/-- A write of any words of the ring does what its two parts do one after the other. -/
theorem exec_parts {b : Nat} {ring : CaptureRing} {s t u : State} (free : PortFree b s) (windows : WindowInv s)
    (placed : s.tp.captureRing = some ring) {w w1 w2 : WriteBurst} (wf : w.wf = true)
    (inside : ∀ x ∈ burstWords w, x.enables ≠ 0 → ring.base ≤ x.addr ∧ x.addr < ring.base + 32 * ring.slots)
    {first second words1 words2 : List WordWrite} (parts : burstWords w = first ++ second)
    (one : writtenWords (burstWords w1) = writtenWords first) (two : writtenWords (burstWords w2) = writtenWords second)
    (done1 : exec (.captureWrite w1) s = .next t) (down1 : t.ports.down = s.ports.down ++ [.write w1.addr.toNat words1])
    (done2 : exec (.captureWrite w2) { t with
      tp := { t.tp with outstanding := t.tp.outstanding.dropLast }, ports := s.ports } = .next u)
    (down2 : u.ports.down = s.ports.down ++ [.write w2.addr.toNat words2])
    (joined : ∀ x ∈ writtenWords first, ∀ y ∈ writtenWords second, slotOf ring x = slotOf ring y →
      ∃ f, t.fr.frame = some f ∧ f.slot = slotOf ring y) :
    ∃ words, exec (.captureWrite w) s = .next { u with
        tp := { u.tp with outstanding := u.tp.outstanding.dropLast ++ [.write w.addr.toNat] }
        ports := { s.ports with down := s.ports.down ++ [.write w.addr.toNat words] } } ∧
      words.map (fun x => (x.addr, x.enables)) = (burstWords w).map (fun x => (x.addr, x.enables)) ∧
      ∀ x ∈ words, x ∈ if x.enables = 0 then burstWords w else words1 ++ words2 := by
  have here := ringAt_of_free free windows placed
  have words : ∀ x ∈ burstWords w, x.enables ≠ 0 → RingWord ring x := fun x hx set =>
    ⟨(burstWords_addr wf hx).2.2, inside x hx set⟩
  obtain ⟨p, v, taken1, stall1, hold1, carried1, ports1, port1, frame, left1⟩ := exec_hasPassed free.1.1 free.2 done1 down1
  have between : { t with tp := { t.tp with outstanding := t.tp.outstanding.dropLast }, ports := s.ports } = v := by
    rw [left1, ← ports1]
    dsimp only
    rw [List.dropLast_concat]
  rw [between] at done2
  rw [frame] at joined
  have kept : RingAt b ring v := by
    have stays := takeWords_ringAt here (ws := burstWords w1) (fun x hx set => by
      have mem : x ∈ writtenWords first := one ▸ mem_writtenWords.mpr ⟨hx, set⟩
      exact words x (parts ▸ List.mem_append_left _ (mem_writtenWords.mp mem).1) set) (newWrite w1)
    rw [taken1] at stays
    exact stays
  rw [← ports1] at down2
  obtain ⟨q, z, taken2, stall2, hold2, carried2, ports2, port2, -, left2⟩ := exec_hasPassed kept.high port1 done2 down2
  obtain ⟨state, stall, hold, carried⟩ := takeWords_parts here kept parts words one two taken1 stall1 hold1 joined
  rw [taken2] at state stall hold carried
  obtain ⟨ports, upstream⟩ := takeWords_ports (burstWords w) (newWrite w) s
  have addr : _ = w.addr.toNat := takeWords_addr (burstWords w) (newWrite w) s
  obtain ⟨l, all, places, unwritten⟩ := takeWords_carried (burstWords w) (newWrite w) s (stall.trans stall2)
  refine ⟨l, ?_, places, fun x hx => ?_⟩
  · rw [exec_write free.1.1 _ List.mem_cons_self, arrive_write free.2,
      settleWrite_stood (stall.trans stall2) (hold.trans hold2) addr ports (upstream.trans free.2), state, all, left2]
    dsimp only
    rw [List.dropLast_concat]
    rfl
  · split
    · next none_ => exact unwritten x hx none_
    · next set =>
      rw [all, carried1, carried2] at carried
      have mem : x ∈ writtenWords ([] ++ l) := mem_writtenWords.mpr ⟨hx, set⟩
      rw [show writtenWords ([] ++ l) = _ from carried] at mem
      exact (List.mem_append.mp mem).elim (fun h => List.mem_append_left _ (mem_writtenWords.mp h).1)
        fun h => List.mem_append_right _ (mem_writtenWords.mp h).1

/-! ## One word of a slot a write -/

section

variable {b : Nat} {s : State} {ring : CaptureRing} {slot n : Nat} (ready : SlotReady b s ring slot) (small : n < 8)
  {upper lower : Word} {lanes : BitVec 8} (beside : lanes.extractLsb' (4 - 4 * (n % 2)) 4 = 0)

/-- The write of word `n` of a slot alone, some of its bytes written. -/
def oneWord (a n : Nat) (upper lower : Word) (lanes : BitVec 8) : WriteBurst :=
  { addr := BitVec.ofNat 32 (a + 8 * (n / 2)), beats := [{ data := upper ++ lower, lanes := lanes }] }

/-- The word that such a write writes. -/
def itsWord (a n : Nat) (upper lower : Word) (lanes : BitVec 8) : WordWrite :=
  { addr := a + 4 * n, data := if n % 2 = 0 then lower else upper, enables := lanes.extractLsb' (4 * (n % 2)) 4 }

include ready small

theorem oneWord_wf (upper lower : Word) (lanes : BitVec 8) : (oneWord (ring.base + 32 * slot) n upper lower lanes).wf = true := by
  have place := slot_place ready
  have addr := (beatAddress place small).2
  rw [WriteBurst.wf, burstOk, oneWord, addr]
  simp only [List.length_singleton, Config.addressSpace, Bool.and_eq_true, decide_eq_true_eq]
  omega

include beside

/-- The words of such a write: the word itself, beside one that is not written. -/
theorem oneWord_words : ∃ before after, burstWords (oneWord (ring.base + 32 * slot) n upper lower lanes) =
      before ++ itsWord (ring.base + 32 * slot) n upper lower lanes :: after ∧
    (∀ y ∈ before, y.enables = 0) ∧ ∀ y ∈ after, y.enables = 0 := by
  rw [oneWord, slotBeat_words (slot_place ready) small, itsWord]
  by_cases even : n % 2 = 0
  · have at_ : ring.base + 32 * slot + 8 * (n / 2) = ring.base + 32 * slot + 4 * n := by omega
    rw [even] at beside ⊢
    rw [if_pos rfl, at_]
    refine ⟨[], _, rfl, fun y hy => absurd hy List.not_mem_nil, fun y hy => ?_⟩
    rw [List.mem_singleton.mp hy]
    exact beside
  · have odd : n % 2 = 1 := by omega
    have at_ : ring.base + 32 * slot + 8 * (n / 2) + 4 = ring.base + 32 * slot + 4 * n := by omega
    rw [odd] at beside ⊢
    rw [if_neg (by decide), at_]
    refine ⟨[_], [], rfl, fun y hy => ?_, fun y hy => absurd hy List.not_mem_nil⟩
    rw [List.mem_singleton.mp hy]
    exact beside

/-- Such a write writes no word but the one. -/
theorem oneWord_written {x : WordWrite} (hx : x ∈ burstWords (oneWord (ring.base + 32 * slot) n upper lower lanes))
    (written : x.enables ≠ 0) : x = itsWord (ring.base + 32 * slot) n upper lower lanes := by
  obtain ⟨before, after, words, unwritten, unwritten'⟩ := oneWord_words ready small beside (upper := upper) (lower := lower)
  rw [words, List.mem_append, List.mem_cons] at hx
  rcases hx with hx | hx | hx
  · exact absurd (unwritten x hx) written
  · exact hx
  · exact absurd (unwritten' x hx) written

end

/-- A full word 0 without a frame starts one (R3). -/
theorem exec_startWord {b : Nat} {s : State} {ring : CaptureRing} {slot : Nat} (ready : SlotReady b s ring slot)
    (absent : s.fr.frame = none) {upper lower : Word} {lanes : BitVec 8} (beside : lanes.extractLsb' 4 4 = 0)
    (full : lanes.extractLsb' 0 4 = 0xF) :
    let w := oneWord (ring.base + 32 * slot) 0 upper lower lanes
    exec (.captureWrite w) s = .next (passed w.addr.toNat (burstWords w) (frameState s (startFrame slot lower))) := by
  intro w
  obtain ⟨before, after, words, unwritten, unwritten'⟩ := oneWord_words ready (n := 0) (by decide) beside (upper := upper) (lower := lower)
  have abandoned : s.abandonFrame = s := by rw [State.abandonFrame, absent]
  have taken := takeWord_slot ready (n := 0) (by decide) (x := itsWord (ring.base + 32 * slot) 0 upper lower lanes) rfl
    (by change lanes.extractLsb' 0 4 ≠ 0; rw [full]; decide) none
  rw [takeCapture_start full rfl, abandoned] at taken
  exact exec_firstWord ready.free words unwritten taken (depth_slot ready (n := 0) (by decide) rfl) fun y hy =>
    idle_unwritten _ _ (unwritten' y hy)

/-- Settles O50: one word by what it finds, one slot run by its first written word, and any words of the ring by their parts. -/
theorem tornAndStrayWordsAreCounted : Obligations.TornAndStrayWordsAreCounted := by
  unfold Obligations.TornAndStrayWordsAreCounted
  refine ⟨fun b s ring slot n upper lower lanes free windows placed inside small clear => ?_,
    fun b s ring slot w free windows placed inside wf => ?_, fun b s t u ring w w1 w2 first second words1 words2 free windows placed
      wf _ _ all => ?_⟩
  · have ready : SlotReady b s ring slot := ⟨free, windows, placed, inside, clear⟩
    intro w mine data full written beside on torn fresh
    have addr : w.addr.toNat = ring.base + 32 * slot + 8 * (n / 2) := (beatAddress (slot_place ready) small).2
    have wf : w.wf = true := oneWord_wf ready small upper lower lanes
    have only {x : WordWrite} (hx : x ∈ burstWords w) (set : x.enables ≠ 0) := oneWord_written ready small beside hx set
    obtain ⟨before, after, words, unwritten, -⟩ := oneWord_words ready small beside (upper := upper) (lower := lower)
    have within : ∀ x ∈ burstWords w, x.enables ≠ 0 → ring.base + 32 * slot ≤ x.addr ∧ x.addr < ring.base + 32 * slot + 32 :=
      fun x hx set => by
        rw [only hx set, itsWord]
        dsimp only
        omega
    have begins {s : State} (ready : SlotReady b s ring slot) (whole : full) (first : n = 0) (absent : s.fr.frame = none) :
        exec (.captureWrite w) s = .next (passed (ring.base + 32 * slot + 8 * (n / 2)) (burstWords w) (frameState s fresh)) := by
      rw [← addr]
      subst first
      exact exec_startWord ready absent beside whole
    refine ⟨fun whole first absent => begins ready whole first absent, fun whole first present => ?_, fun later absent => ?_,
      fun f present here later other => ?_⟩
    · have at_ : (itsWord (ring.base + 32 * slot) n upper lower lanes).addr = ring.base + 32 * slot := by
        rw [first]
        rfl
      exact (exec_start_torn free.2 (ringAt_of_free free windows placed) inside present words unwritten at_ whole).trans
        (begins (slotReady_tornInto ready none) whole first rfl)
    · have strays := exec_strays ready wf within ⟨_, words ▸ List.mem_append_right _ List.mem_cons_self, written⟩
        (fun x hx at_ whole => by
          have its := only hx (by rw [whole]; decide)
          rw [its] at at_ whole
          rw [itsWord] at at_
          exact later ⟨whole, by dsimp only at at_; omega⟩) absent
      rw [addr] at strays
      exact strays
    · have tears := exec_tears ready wf within present here words unwritten written fun next => by
        rw [itsWord] at next
        dsimp only at next
        obtain ⟨whole, start | next⟩ := next
        · exact later ⟨whole, by omega⟩
        · exact other ⟨whole, by omega⟩
      rw [addr] at tears
      exact tears
  · intro a counted
    refine ⟨fun clear within => ?_, fun before after x present words unwritten at_ full =>
      exec_start_torn free.2 (ringAt_of_free free windows placed) inside present words unwritten at_ full⟩
    have ready : SlotReady b s ring slot := ⟨free, windows, placed, inside, clear⟩
    exact ⟨fun some_written start absent => exec_strays ready wf within some_written start absent,
      fun f before after x present here words unwritten written other =>
        exec_tears ready wf within present here words unwritten written other⟩
  · intro slots written parts one two done1 down1 done2 down2 joined
    exact exec_parts free windows placed wf all parts one two done1 down1 done2 down2 joined

end Sys2Proof.Proofs
end
